-- ==== Sys2Proof/Word.lean ====
section
/-! DEFINITION. The two word types of the hardware: bytes (registers, memory cells, opcodes) and 16-bit
words (pc, sp, addresses). All values are unsigned and arithmetic on them wraps (R6, R7). -/

namespace Sys2Proof

/-- An 8-bit value: a register, a memory byte, an opcode or an operand byte (R5, `XLEN` and byte size). -/
abbrev Byte := BitVec 8

/-- A 16-bit value: pc, sp or an address (R5, `ALEN`); its addition is modulo 65,536 (R47). -/
abbrev Word := BitVec 16

end Sys2Proof
end

