-- ==== Sys2Proof/Config.lean ====
section
/-! DEFINITION. What the spec fixes for one machine (R5), and the one value it leaves open: the content of
memory outside the loaded image. -/

namespace Sys2Proof

/-- `MEM_INIT` (R5, R28, D14 OPEN): the byte at an address that nothing has written. A FREE VALUE: it has no
body, so nothing can be proved of it and every statement holds for every content. DESIGN CHOICE of its form,
safe; log entry 1. -/
opaque Config.memInit : Word → Byte

/-- `MEM_SIZE` (R5, R26): the number of bytes of memory. -/
def Config.memSize : Nat := 65536

/-- The address the image is loaded at (R5, R46). -/
def Config.loadAddress : Nat := 0

/-- `FAULT_EXIT_STATUS` (R5, R171): what the host reports for a Faulted core. -/
def Config.faultExitStatus : Nat := 1

/-- What the host reports for a Halted core (R171). -/
def Config.haltExitStatus : Nat := 0

/-- The number of the one cause, `UnimplementedInstruction`, for an interface that wants one (R171). -/
def Config.unimplementedCause : Nat := 1

end Sys2Proof
end

