-- ==== Sys2Proof/Machine/State.lean ====
section
/-! DEFINITION. The state of the machine (R10), every field plain data, and the state right after reset (R28).
The memory's canonical form stands here; its operations stand in Machine/Ops.lean. -/

namespace Sys2Proof.Machine

/-- The seven general registers, the accumulator among them (R11). Code 6 of an operand field is no register:
it selects the memory cell at HL. -/
inductive Reg where
  | b | c | d | e | h | l | a
  deriving DecidableEq, Repr

/-- The flags record: five independent bits (R18), with no packed form (R22). -/
structure Flags where
  /-- Zero. -/
  z : Bool
  /-- Sign. -/
  s : Bool
  /-- Parity: true for an even number of 1 bits. -/
  p : Bool
  /-- Carry. -/
  cy : Bool
  /-- Auxiliary-Carry: stored, never written and never read by an instruction (R20). -/
  ac : Bool
  deriving DecidableEq, Repr

/-- `run_state` (R24). Halted and Faulted are left only by reset. -/
inductive RunState where
  | running | halted | faulted
  deriving DecidableEq, Repr

/-- Memory: the bytes written so far, each with its address. An address that is not listed has never been
written; what it reads as is `Memory.unlisted`. -/
abbrev Memory := List Host.Cell

/-- What an unlisted address reads as: the byte `MEM_INIT` has there (R28, D14), a free value. DESIGN CHOICE
of its form, safe; log entry 1. -/
def Memory.unlisted (addr : Word) : Byte := Config.memInit addr

/-- The canonical form from the address `low` on: addresses strictly rising, none below `low` and none outside
the 65,536 bytes (R26). -/
def Memory.wfFrom : Nat → Memory → Bool
  | _, [] => true
  | low, (addr, _) :: rest => decide (low ≤ addr) && decide (addr < Config.memSize) && Memory.wfFrom (addr + 1) rest

/-- The canonical form of a memory. What an unlisted address reads as has no value in Lean, so no listed byte
can equal it as data: rising addresses are the whole form (log entry 2). -/
def Memory.wf (m : Memory) : Bool := Memory.wfFrom 0 m

/-- The Processor State (R10), and the circuit's three latches (R27, log entry 3). -/
structure State where
  /-- The accumulator, code 7 (R11). -/
  a : Byte
  /-- Register B, code 0, the high half of BC (R11, R12). -/
  b : Byte
  /-- Register C, code 1, the low half of BC. -/
  c : Byte
  /-- Register D, code 2, the high half of DE. -/
  d : Byte
  /-- Register E, code 3, the low half of DE. -/
  e : Byte
  /-- Register H, code 4, the high half of HL. -/
  h : Byte
  /-- Register L, code 5, the low half of HL. -/
  l : Byte
  /-- The program counter: between instructions the address of the next opcode (R15). -/
  pc : Word
  /-- The stack pointer: the address of the top of a stack that grows downward (R17). -/
  sp : Word
  /-- The flags record (R18). -/
  flags : Flags
  /-- The interrupt-enable bit: stored, never written and never read (R23). -/
  inte : Bool
  /-- Running, Halted or Faulted (R24). -/
  runState : RunState
  /-- IR: the opcode byte last fetched (R27); `fault_opcode` while Faulted (R25). -/
  ir : Byte
  /-- Z_lo: the latch of the first operand byte, of ADD M's datum and of the low byte popped (R27, R87). -/
  zLo : Byte
  /-- W_hi: the latch of the second operand byte and of the high byte popped (R27, R87). -/
  wHi : Byte
  /-- Memory (R26). -/
  mem : Memory
  deriving DecidableEq, Repr

/-- Why a step could stop with a fault: never. The one exception of this hardware is a state of the machine
(Faulted, R24), entered by `State.raiseUnimplemented` (R172), and "the step is a deterministic total function"
(R80), so the type has no constructor. Safe: nothing is stopped that the spec lets go on. Log entry 4. -/
inductive Fault
  deriving DecidableEq, Repr

/-- Why an instruction could have no meaning. -/
inductive Refusal where
  /-- Raised by an arm of `exec` for an instruction not modelled yet. No arm raises it: all 25 instructions
  have a meaning. Safe. -/
  | notModelled (mnemonic : String)
  deriving DecidableEq, Repr

/-- The machine right after reset (R28): everything 0, Running, and no byte of memory written yet. -/
def State.reset : State where
  a := 0
  b := 0
  c := 0
  d := 0
  e := 0
  h := 0
  l := 0
  pc := 0
  sp := 0
  flags := { z := false, s := false, p := false, cy := false, ac := false }
  inte := false
  runState := .running
  ir := 0
  zLo := 0
  wHi := 0
  mem := []

end Sys2Proof.Machine
end

