-- ==== Sys2Proof/Machine/Flags.lean ====
section
/-! DEFINITION. The flags unit (R130 to R132): parity, the three result flags, the four classes of flag
update, and the conditions the conditional jumps test (R64, R141). -/

namespace Sys2Proof.Machine

/-- The number of 1 bits among the low `w` bits of a number (R7). -/
def popcount : Nat → Nat → Nat
  | 0, _ => 0
  | w + 1, v => v % 2 + popcount w (v / 2)

/-- `Parity(v, w)` (R130): masks to `w` bits and reports whether the number of 1 bits is even. -/
def parity (v w : Nat) : Bool := popcount w (v % 2 ^ w) % 2 == 0

/-- `ZSP(r)` (R131): the three result flags; CY and AC hold. -/
def Flags.zsp (f : Flags) (r : Byte) : Flags :=
  { f with z := r == 0, s := r.getLsbD 7, p := parity r.toNat 8 }

/-- The operation class dispatch hands to the flags unit (R132). -/
inductive FlagClass where
  /-- ADD r, ADD M, ADI. -/
  | add
  /-- ANI. -/
  | and
  /-- RRC, RAR. -/
  | rot
  /-- Every other instruction. -/
  | none
  deriving DecidableEq, Repr

/-- The flags unit (R132): from the ALU result, the adder's carry-out and the bit rotated out, the next value
of the flags. AC holds in every class (R20). -/
def flagsUnit (cls : FlagClass) (r : Byte) (carryOut bitOut : Bool) (f : Flags) : Flags :=
  match cls with
  | .add => { f.zsp r with cy := carryOut }
  | .and => { f.zsp r with cy := false }
  | .rot => { f with cy := bitOut }
  | .none => f

/-- The conditions of the conditional jumps (R64). None tests AC. -/
inductive Cond where
  | nz | z | nc | c | po | pe | p | m
  deriving DecidableEq, Repr

/-- The condition field `ccc` = opcode[5:3] (R64). -/
def Cond.code : Cond → BitVec 3
  | .nz => 0b000
  | .z => 0b001
  | .nc => 0b010
  | .c => 0b011
  | .po => 0b100
  | .pe => 0b101
  | .p => 0b110
  | .m => 0b111

/-- Condition evaluation (R64, R141): the flag as it stands when the instruction starts. -/
def Cond.holds (cond : Cond) (f : Flags) : Bool :=
  match cond with
  | .nz => !f.z
  | .z => f.z
  | .nc => !f.cy
  | .c => f.cy
  | .po => !f.p
  | .pe => f.p
  | .p => !f.s
  | .m => f.s

end Sys2Proof.Machine
end

