-- ==== Sys2Proof/Syntax.lean ====
section
/-! DEFINITION. The instructions: one constructor per row of spec/opcode_table.json (R65), operands decoded.
The register of an ADD and the condition of a jump are part of the constructor, as in the table. -/

namespace Sys2Proof

/-- The 25 bound instructions (R65), in the table's order. -/
inductive Instr where
  /-- RRC, 0x0F (R120). -/
  | rrc
  /-- RAR, 0x1F (R121). -/
  | rar
  /-- CMA, 0x2F (R111). -/
  | cma
  /-- HLT, 0x76 (R160). -/
  | hlt
  /-- ADD B, 0x80 (R101). -/
  | addB
  /-- ADD C, 0x81 (R101). -/
  | addC
  /-- ADD D, 0x82 (R101). -/
  | addD
  /-- ADD E, 0x83 (R101). -/
  | addE
  /-- ADD H, 0x84 (R101). -/
  | addH
  /-- ADD L, 0x85 (R101). -/
  | addL
  /-- ADD M, 0x86 (R102). -/
  | addM
  /-- ADD A, 0x87 (R101). -/
  | addA
  /-- JNZ a16, 0xC2 (R143). -/
  | jnz (a16 : Word)
  /-- JMP a16, 0xC3 (R140). -/
  | jmp (a16 : Word)
  /-- ADI d8, 0xC6 (R103). -/
  | adi (d8 : Byte)
  /-- RET, 0xC9 (R154). -/
  | ret
  /-- JZ a16, 0xCA (R144). -/
  | jz (a16 : Word)
  /-- CALL a16, 0xCD (R153). -/
  | call (a16 : Word)
  /-- JNC a16, 0xD2 (R145). -/
  | jnc (a16 : Word)
  /-- JC a16, 0xDA (R146). -/
  | jc (a16 : Word)
  /-- JPO a16, 0xE2 (R147). -/
  | jpo (a16 : Word)
  /-- ANI d8, 0xE6 (R110). -/
  | ani (d8 : Byte)
  /-- JPE a16, 0xEA (R148). -/
  | jpe (a16 : Word)
  /-- JP a16, 0xF2 (R149). -/
  | jp (a16 : Word)
  /-- JM a16, 0xFA (R150). -/
  | jm (a16 : Word)
  deriving DecidableEq, Repr

end Sys2Proof
end

