-- ==== Sys2Proof/WellFormed.lean ====
section
/-! DEFINITION. Well-formedness. An instruction as syntax is always well formed: its operands carry their
width in their type and every operand value is legal (R67). What can be ill formed is a string of bytes that
is meant to be one instruction (R60, R61, R66) and an image that is meant to fit in memory (R191, D21). -/

namespace Sys2Proof

/-- R67: "Operand bytes are unconstrained: every d8 value 0 to 255 and every a16 value 0 to 65,535 is legal".
One arm per constructor, so that an instruction added later must answer here. -/
def Instr.wellFormed : Instr → Bool
  | .rrc => true
  | .rar => true
  | .cma => true
  | .hlt => true
  | .addB => true
  | .addC => true
  | .addD => true
  | .addE => true
  | .addH => true
  | .addL => true
  | .addM => true
  | .addA => true
  | .jnz _ => true
  | .jmp _ => true
  | .adi _ => true
  | .ret => true
  | .jz _ => true
  | .call _ => true
  | .jnc _ => true
  | .jc _ => true
  | .jpo _ => true
  | .ani _ => true
  | .jpe _ => true
  | .jp _ => true
  | .jm _ => true

/-- The bound opcodes of format F1 (R60, R65). -/
def f1Opcodes : List Byte :=
  [0x0F, 0x1F, 0x2F, 0x76, 0x80, 0x81, 0x82, 0x83, 0x84, 0x85, 0x86, 0x87, 0xC9]

/-- The bound opcodes of format F2 (R60, R65). -/
def f2Opcodes : List Byte := [0xC6, 0xE6]

/-- The bound opcodes of format F3 (R60, R65). -/
def f3Opcodes : List Byte :=
  [0xC2, 0xC3, 0xCA, 0xCD, 0xD2, 0xDA, 0xE2, 0xEA, 0xF2, 0xFA]

/-- Is this byte string exactly one instruction: a bound opcode with as many operand bytes as its format
has (R60, R61)? -/
def bytesWellFormed : List Byte → Bool
  | [op] => f1Opcodes.contains op
  | [op, _] => f2Opcodes.contains op
  | [op, _, _] => f3Opcodes.contains op
  | _ => false

/-- Does the image fit in memory (R191: `len <= 65,536`)? -/
def imageWellFormed (image : List Byte) : Bool := decide (image.length ≤ Config.memSize)

end Sys2Proof
end

