-- ==== Sys2Proof/Decode.lean ====
section
/-! DEFINITION. The decoder (R60 to R70), the encoder written from the same table (R65), and the helpers that
take a word apart into its bytes and put it together again (R42, R62). -/

namespace Sys2Proof

/-- `w[15:8]`, the high byte of a word (R6, R42). -/
def hiByte (w : Word) : Byte := w.extractLsb' 8 8

/-- `w[7:0]`, the low byte of a word (R6, R42). -/
def loByte (w : Word) : Byte := w.extractLsb' 0 8

/-- `hi:lo`, the word `256*hi + lo` (R6, R62). -/
def pairWord (hi lo : Byte) : Word := hi ++ lo

/-- The outcome of dispatch on an opcode byte (R70): no handler, or a handler with the operand bytes its
format still has to fetch (R60). -/
inductive Binding where
  /-- No handler: the fatal path (R66, R172). -/
  | unbound
  /-- Format F1: no operand byte. -/
  | f1 (i : Instr)
  /-- Format F2: one operand byte, d8. -/
  | f2 (mk : Byte → Instr)
  /-- Format F3: two operand bytes, assembled to a16. -/
  | f3 (mk : Word → Instr)

/-- The opcode map (R65), total on all 256 values (R70); every value not listed is unbound (R66). -/
def dispatch (op : Byte) : Binding :=
  match op.toNat with
  | 0x0F => .f1 .rrc
  | 0x1F => .f1 .rar
  | 0x2F => .f1 .cma
  | 0x76 => .f1 .hlt
  | 0x80 => .f1 .addB
  | 0x81 => .f1 .addC
  | 0x82 => .f1 .addD
  | 0x83 => .f1 .addE
  | 0x84 => .f1 .addH
  | 0x85 => .f1 .addL
  | 0x86 => .f1 .addM
  | 0x87 => .f1 .addA
  | 0xC2 => .f3 .jnz
  | 0xC3 => .f3 .jmp
  | 0xC6 => .f2 .adi
  | 0xC9 => .f1 .ret
  | 0xCA => .f3 .jz
  | 0xCD => .f3 .call
  | 0xD2 => .f3 .jnc
  | 0xDA => .f3 .jc
  | 0xE2 => .f3 .jpo
  | 0xE6 => .f2 .ani
  | 0xEA => .f3 .jpe
  | 0xF2 => .f3 .jp
  | 0xFA => .f3 .jm
  | _ => .unbound

/-- Has the opcode a handler (R66)? -/
def isBound (op : Byte) : Bool :=
  match dispatch op with
  | .unbound => false
  | .f1 _ => true
  | .f2 _ => true
  | .f3 _ => true

/-- The instruction's length in bytes, a function of the opcode alone; an unbound opcode has none (R61). -/
def lengthOfOpcode (op : Byte) : Option Nat :=
  match dispatch op with
  | .unbound => none
  | .f1 _ => some 1
  | .f2 _ => some 2
  | .f3 _ => some 3

/-- Why a byte string is not decoded. -/
inductive DecodeError where
  /-- There is no opcode byte. Only for strings cut off outside memory: a fetch always finds a byte (R45). -/
  | noOpcode
  /-- The opcode has no handler (R66); in the machine this is the fatal path (R172). -/
  | unimplemented (opcode : Byte)
  /-- The string ends before the instruction's last operand byte. Only for strings outside memory. -/
  | truncated (opcode : Byte)
  deriving DecidableEq, Repr

/-- Decodes one instruction from the front of a byte string; answers it and the bytes after it. Operand bytes
follow the opcode in ascending order, a16 low byte first (R60, R62, R83). -/
def decode : List Byte → Except DecodeError (Instr × List Byte)
  | [] => .error .noOpcode
  | op :: rest =>
    match dispatch op, rest with
    | .unbound, _ => .error (.unimplemented op)
    | .f1 i, _ => .ok (i, rest)
    | .f2 mk, d8 :: rest' => .ok (mk d8, rest')
    | .f2 _, [] => .error (.truncated op)
    | .f3 mk, lo :: hi :: rest' => .ok (mk (pairWord hi lo), rest')
    | .f3 _, _ => .error (.truncated op)

/-- The opcode byte of an instruction (R65, first column). -/
def opcodeOf : Instr → Byte
  | .rrc => 0x0F
  | .rar => 0x1F
  | .cma => 0x2F
  | .hlt => 0x76
  | .addB => 0x80
  | .addC => 0x81
  | .addD => 0x82
  | .addE => 0x83
  | .addH => 0x84
  | .addL => 0x85
  | .addM => 0x86
  | .addA => 0x87
  | .jnz _ => 0xC2
  | .jmp _ => 0xC3
  | .adi _ => 0xC6
  | .ret => 0xC9
  | .jz _ => 0xCA
  | .call _ => 0xCD
  | .jnc _ => 0xD2
  | .jc _ => 0xDA
  | .jpo _ => 0xE2
  | .ani _ => 0xE6
  | .jpe _ => 0xEA
  | .jp _ => 0xF2
  | .jm _ => 0xFA

/-- An address operand as it lies in memory: low byte first (R42, R62). -/
def addressBytes (a16 : Word) : List Byte := [loByte a16, hiByte a16]

/-- The operand bytes of an instruction, in memory order (R60). -/
def operandBytes : Instr → List Byte
  | .rrc => []
  | .rar => []
  | .cma => []
  | .hlt => []
  | .addB => []
  | .addC => []
  | .addD => []
  | .addE => []
  | .addH => []
  | .addL => []
  | .addM => []
  | .addA => []
  | .jnz a16 => addressBytes a16
  | .jmp a16 => addressBytes a16
  | .adi d8 => [d8]
  | .ret => []
  | .jz a16 => addressBytes a16
  | .call a16 => addressBytes a16
  | .jnc a16 => addressBytes a16
  | .jc a16 => addressBytes a16
  | .jpo a16 => addressBytes a16
  | .ani d8 => [d8]
  | .jpe a16 => addressBytes a16
  | .jp a16 => addressBytes a16
  | .jm a16 => addressBytes a16

/-- The bytes of an instruction, the first at the lowest address (R60). -/
def encode (i : Instr) : List Byte := opcodeOf i :: operandBytes i

/-- The length in bytes of an instruction (R60, last column of the format table). -/
def instrLength (i : Instr) : Nat := (operandBytes i).length + 1

/-- The assembler's name of an instruction, operands apart (R68). -/
def mnemonic : Instr → String
  | .rrc => "RRC"
  | .rar => "RAR"
  | .cma => "CMA"
  | .hlt => "HLT"
  | .addB => "ADD B"
  | .addC => "ADD C"
  | .addD => "ADD D"
  | .addE => "ADD E"
  | .addH => "ADD H"
  | .addL => "ADD L"
  | .addM => "ADD M"
  | .addA => "ADD A"
  | .jnz _ => "JNZ"
  | .jmp _ => "JMP"
  | .adi _ => "ADI"
  | .ret => "RET"
  | .jz _ => "JZ"
  | .call _ => "CALL"
  | .jnc _ => "JNC"
  | .jc _ => "JC"
  | .jpo _ => "JPO"
  | .ani _ => "ANI"
  | .jpe _ => "JPE"
  | .jp _ => "JP"
  | .jm _ => "JM"

/-- Byte `k` of an instruction given as one number whose low `nbits` bits are the opcode table's: the first
byte is bits 7..0, the next bits 15..8 and so on; every bit from `nbits` up is 0. -/
def tableByte (nbits w k : Nat) : Byte := BitVec.ofNat 8 ((w % 2 ^ nbits) >>> (8 * k))

/-- The three bytes, as many as the longest instruction has (R60), of an instruction given as one number. -/
def tableBytes (nbits w : Nat) : List Byte :=
  [tableByte nbits w 0, tableByte nbits w 1, tableByte nbits w 2]

/-- What the decoder reads from an instruction given as one number in the opcode table's numbering. -/
def decodeTableWord (nbits w : Nat) : Option Instr :=
  match decode (tableBytes nbits w) with
  | .ok (i, _) => some i
  | .error _ => none

end Sys2Proof
end

