-- ==== Sys2Proof/Machine/Ops.lean ====
section
/-! DEFINITION. The named operations every instruction is written with: memory, registers and pairs, the
stack, the program counter, the latches, taking the one exception, halting, reset and the load of an image,
and the ports as views of the state. -/

namespace Sys2Proof.Machine

/-- The byte listed at an address, if any. -/
def Memory.lookup : Memory → Nat → Option Byte
  | [], _ => none
  | (k, v) :: rest, addr => if addr = k then some v else Memory.lookup rest addr

/-- Lists a byte at an address, keeping the addresses rising. -/
def Memory.store : Memory → Nat → Byte → Memory
  | [], addr, v => [(addr, v)]
  | (k, w) :: rest, addr, v =>
    if addr < k then (addr, v) :: (k, w) :: rest
    else if addr = k then (addr, v) :: rest
    else (k, w) :: Memory.store rest addr v

/-- Places a byte string from an address upward (R46, R191). -/
def Memory.loadFrom : Memory → Nat → List Byte → Memory
  | m, _, [] => m
  | m, addr, v :: rest => Memory.loadFrom (Memory.store m addr v) (addr + 1) rest

/-- `MemRead(addr, 1)` (R9): the last byte written at the address, or its initial content (R45). It cannot
fail: every 16-bit address names a byte (R40, R47). -/
def State.readByte (s : State) (addr : Word) : Byte :=
  (Memory.lookup s.mem addr.toNat).getD (Memory.unlisted addr)

/-- `MemWrite(addr, 1, v)` (R9). -/
def State.writeByte (s : State) (addr : Word) (v : Byte) : State :=
  { s with mem := Memory.store s.mem addr.toNat v }

/-- `MemRead(addr, 2)` (R9): the low byte at the lower address; the second address wraps (R47). -/
def State.readWord (s : State) (addr : Word) : Word :=
  pairWord (s.readByte (addr + 1)) (s.readByte addr)

/-- `MemWrite(addr, 2, v)` (R9): the low byte at the lower address; the second address wraps (R47). -/
def State.writeWord (s : State) (addr : Word) (v : Word) : State :=
  (s.writeByte addr (loByte v)).writeByte (addr + 1) (hiByte v)

/-- `x[i]` (R8): reads a general register. -/
def State.reg (s : State) : Reg → Byte
  | .b => s.b
  | .c => s.c
  | .d => s.d
  | .e => s.e
  | .h => s.h
  | .l => s.l
  | .a => s.a

/-- `x[i] <- v` (R8): writes a general register. No register is hardwired (R11). -/
def State.setReg (s : State) (r : Reg) (v : Byte) : State :=
  match r with
  | .b => { s with b := v }
  | .c => { s with c := v }
  | .d => { s with d := v }
  | .e => { s with e := v }
  | .h => { s with h := v }
  | .l => { s with l := v }
  | .a => { s with a := v }

/-- pair1, BC: a view of two registers (R12). -/
def State.bc (s : State) : Word := pairWord s.b s.c

/-- pair2, DE: a view of two registers (R12). -/
def State.de (s : State) : Word := pairWord s.d s.e

/-- pair3, HL: a view of two registers, and the address of the operand M (R12). -/
def State.hl (s : State) : Word := pairWord s.h s.l

/-- `pc <- u16(pc0 + n)` (R16): past an instruction of `n` bytes. -/
def State.advance (s : State) (n : Word) : State := { s with pc := s.pc + n }

/-- `pc <- target` (R84): a control transfer; the target is used as it is. -/
def State.jumpTo (s : State) (target : Word) : State := { s with pc := target }

/-- Latches one byte in Z_lo (R27, R87: S_OPD_LO of format F2, S_MEMRD). -/
def State.latchByte (s : State) (v : Byte) : State := { s with zLo := v }

/-- Latches two bytes in W_hi:Z_lo (R27, R87: S_OPD_LO and S_OPD_HI, S_POP_LO and S_POP_HI). -/
def State.latchWord (s : State) (v : Word) : State := { s with zLo := loByte v, wHi := hiByte v }

/-- `Push16(v)` (R151): the high byte at sp - 1 first, then the low byte at sp - 2 (R53), then sp. -/
def State.push16 (s : State) (v : Word) : State :=
  let s₁ := s.writeByte (s.sp - 1) (hiByte v)
  let s₂ := s₁.writeByte (s.sp - 2) (loByte v)
  { s₂ with sp := s.sp - 2 }

/-- `Pop16()` (R152): the value at sp, and the state with sp advanced by 2. The bytes stay in memory. -/
def State.pop16 (s : State) : Word × State :=
  (s.readWord s.sp, { s with sp := s.sp + 2 })

/-- `raise UnimplementedInstruction(pc0, opcode)` (R172): taking the one exception. pc is the address of the
opcode, run_state is Faulted, IR holds the opcode, and nothing else changes. There is no return from this
exception (R174): only reset leaves Faulted. -/
def State.raiseUnimplemented (s : State) (pc0 : Word) (opcode : Byte) : State :=
  { s with pc := pc0, runState := .faulted, ir := opcode }

/-- `run_state <- Halted` (R160). -/
def State.enterHalted (s : State) : State := { s with runState := .halted }

/-- The reset action (R190, R195): every component but memory takes its reset value, in whatever state the
machine is; memory is not written. -/
def State.applyReset (s : State) : State := { State.reset with mem := s.mem }

/-- The state in which reset is released after the host has loaded an image (R191): byte i of the image at
address i. An image longer than memory is a loader error, and no run starts (R191, R175). -/
def State.launch (image : List Byte) : Option State :=
  if imageWellFormed image then
    some { State.reset with mem := Memory.loadFrom [] Config.loadAddress image }
  else none

/-- The `run_state[1:0]` port (R24): 0b11 is never driven. -/
def RunState.port : RunState → BitVec 2
  | .running => 0b00
  | .halted => 0b01
  | .faulted => 0b10

/-- The `fault_addr` port: a view of pc (R25, R88). -/
def State.faultAddr (s : State) : Word := s.pc

/-- The `fault_opcode` port: a view of IR (R25, R88). -/
def State.faultOpcode (s : State) : Byte := s.ir

/-- The number of the cause a stopped core reports (R171); with one cause there is no cause register (R25). -/
def RunState.faultCause : RunState → Option Nat
  | .running => none
  | .halted => none
  | .faulted => some Config.unimplementedCause

/-- The exit status the host reports for a stopped core (R171); a running core has none (log entry 8). -/
def RunState.exitStatus : RunState → Option Nat
  | .running => none
  | .halted => some Config.haltExitStatus
  | .faulted => some Config.faultExitStatus

end Sys2Proof.Machine
end

