-- ==== Sys2Proof/Machine/Operands.lean ====
section
/-! DEFINITION. The operand forms (R62, R63): a register, the memory cell at HL, an immediate byte; and the
one way an ALU result is written, through the flags unit. -/

namespace Sys2Proof.Machine

/-- The register field `sss` = opcode[2:0] (R11, R63); 110 is no register but the operand M. -/
def Reg.code : Reg → BitVec 3
  | .b => 0b000
  | .c => 0b001
  | .d => 0b010
  | .e => 0b011
  | .h => 0b100
  | .l => 0b101
  | .a => 0b111

/-- The register field of the operand M (R11, R63). -/
def memOperandCode : BitVec 3 := 0b110

/-- The operand M: the byte of memory at HL (R12, R102). -/
def State.memOperand (s : State) : Byte := s.readByte s.hl

/-- Writes an ALU result to the accumulator and the flags of its class (R132). The bit rotated out is bit 0 of
the accumulator as it was. -/
def State.writeResult (s : State) (cls : FlagClass) (r : Byte) (carryOut : Bool) : State :=
  { s with a := r, flags := flagsUnit cls r carryOut (s.a.getLsbD 0) s.flags }

/-- The instruction ADD r of a register (R101). -/
def addInstr : Reg → Instr
  | .b => .addB
  | .c => .addC
  | .d => .addD
  | .e => .addE
  | .h => .addH
  | .l => .addL
  | .a => .addA

/-- The conditional jump of a condition (R142). -/
def jumpInstr (cond : Cond) (a16 : Word) : Instr :=
  match cond with
  | .nz => .jnz a16
  | .z => .jz a16
  | .nc => .jnc a16
  | .c => .jc a16
  | .po => .jpo a16
  | .pe => .jpe a16
  | .p => .jp a16
  | .m => .jm a16

end Sys2Proof.Machine
end

