-- ==== Sys2Proof/Machine/Arithmetic.lean ====
section
/-! DEFINITION. The arithmetic group: ADD r, ADD M, ADI (R100 to R105), all through one adder. -/

namespace Sys2Proof.Machine

/-- The adder (R100): the exact sum, its low 8 bits and whether it exceeds 255. There is no carry in. -/
def aluAdd (x y : Byte) : Byte × Bool :=
  let sum := x.toNat + y.toNat
  (BitVec.ofNat 8 sum, decide (255 < sum))

/-- `Add8(A, y)` (R100): writes A, Z, S, P, CY; AC holds. -/
def State.add8 (s : State) (y : Byte) : State :=
  s.writeResult .add (aluAdd s.a y).1 (aluAdd s.a y).2

/-- ADD r (R101): the register is read before anything is written. -/
def addRegister (r : Reg) (s : State) : Host.Outcome State Fault Refusal :=
  .next ((s.add8 (s.reg r)).advance 1)

/-- ADD B (R101). -/
def execAddB (s : State) : Host.Outcome State Fault Refusal := addRegister .b s

/-- ADD C (R101). -/
def execAddC (s : State) : Host.Outcome State Fault Refusal := addRegister .c s

/-- ADD D (R101). -/
def execAddD (s : State) : Host.Outcome State Fault Refusal := addRegister .d s

/-- ADD E (R101). -/
def execAddE (s : State) : Host.Outcome State Fault Refusal := addRegister .e s

/-- ADD H (R101). -/
def execAddH (s : State) : Host.Outcome State Fault Refusal := addRegister .h s

/-- ADD L (R101). -/
def execAddL (s : State) : Host.Outcome State Fault Refusal := addRegister .l s

/-- ADD A (R101): both operands are the old accumulator. -/
def execAddA (s : State) : Host.Outcome State Fault Refusal := addRegister .a s

/-- ADD M (R102): the byte at HL, which Z_lo latches (R87, S_MEMRD). -/
def execAddM (s : State) : Host.Outcome State Fault Refusal :=
  .next (((s.latchByte s.memOperand).add8 s.memOperand).advance 1)

/-- ADI d8 (R103); Z_lo latches the immediate byte (R87, S_OPD_LO). -/
def execAdi (d8 : Byte) (s : State) : Host.Outcome State Fault Refusal :=
  .next (((s.latchByte d8).add8 d8).advance 2)

end Sys2Proof.Machine
end

