-- ==== Sys2Proof/Machine/ControlTransfer.lean ====
section
/-! DEFINITION. Control transfer: JMP, the eight conditional jumps, CALL and RET (R140 to R156). -/

namespace Sys2Proof.Machine

/-- JMP a16 (R140). -/
def execJmp (a16 : Word) (s : State) : Host.Outcome State Fault Refusal :=
  .next ((s.latchWord a16).jumpTo a16)

/-- The common semantics of the conditional jumps (R142): taken, exactly as JMP; not taken, a 3-byte no-op.
Both operand bytes are fetched either way (R83). -/
def conditionalJump (cond : Cond) (a16 : Word) (s : State) : Host.Outcome State Fault Refusal :=
  if cond.holds s.flags then .next ((s.latchWord a16).jumpTo a16)
  else .next ((s.latchWord a16).advance 3)

/-- JNZ a16 (R143). -/
def execJnz (a16 : Word) (s : State) : Host.Outcome State Fault Refusal := conditionalJump .nz a16 s

/-- JZ a16 (R144). -/
def execJz (a16 : Word) (s : State) : Host.Outcome State Fault Refusal := conditionalJump .z a16 s

/-- JNC a16 (R145). -/
def execJnc (a16 : Word) (s : State) : Host.Outcome State Fault Refusal := conditionalJump .nc a16 s

/-- JC a16 (R146). -/
def execJc (a16 : Word) (s : State) : Host.Outcome State Fault Refusal := conditionalJump .c a16 s

/-- JPO a16 (R147). -/
def execJpo (a16 : Word) (s : State) : Host.Outcome State Fault Refusal := conditionalJump .po a16 s

/-- JPE a16 (R148). -/
def execJpe (a16 : Word) (s : State) : Host.Outcome State Fault Refusal := conditionalJump .pe a16 s

/-- JP a16 (R149). -/
def execJp (a16 : Word) (s : State) : Host.Outcome State Fault Refusal := conditionalJump .p a16 s

/-- JM a16 (R150). -/
def execJm (a16 : Word) (s : State) : Host.Outcome State Fault Refusal := conditionalJump .m a16 s

/-- CALL a16 (R153): pushes the address after this 3-byte instruction and jumps. The operand was fetched
before the push (R53). -/
def execCall (a16 : Word) (s : State) : Host.Outcome State Fault Refusal :=
  .next (((s.latchWord a16).push16 (s.pc + 3)).jumpTo a16)

/-- RET (R154): pops an address and jumps to it; W_hi:Z_lo latch it (R87, S_POP_LO and S_POP_HI). -/
def execRet (s : State) : Host.Outcome State Fault Refusal :=
  .next ((s.pop16.2.latchWord s.pop16.1).jumpTo s.pop16.1)

end Sys2Proof.Machine
end

