-- ==== Sys2Proof/Machine/Logical.lean ====
section
/-! DEFINITION. The logical group: ANI and CMA (R110 to R112). -/

namespace Sys2Proof.Machine

/-- `A <- A AND y` (R110): Z, S, P from the result, CY forced to 0, AC held. -/
def State.and8 (s : State) (y : Byte) : State := s.writeResult .and (s.a &&& y) false

/-- `A <- NOT A` (R111): no flag is written. -/
def State.complementA (s : State) : State := s.writeResult .none (~~~ s.a) false

/-- ANI d8 (R110); Z_lo latches the immediate byte (R87, S_OPD_LO). -/
def execAni (d8 : Byte) (s : State) : Host.Outcome State Fault Refusal :=
  .next (((s.latchByte d8).and8 d8).advance 2)

/-- CMA (R111). -/
def execCma (s : State) : Host.Outcome State Fault Refusal := .next (s.complementA.advance 1)

end Sys2Proof.Machine
end

