-- ==== Sys2Proof/Machine/Rotate.lean ====
section
/-! DEFINITION. The rotate group: RRC and RAR (R120 to R123). -/

namespace Sys2Proof.Machine

/-- The shared shape of both rotates (R120, R121): `fill` into bit 7, every other bit one place down. -/
def aluRotate (fill : Bool) (x : Byte) : Byte := BitVec.ofBool fill ++ x.extractLsb' 1 7

/-- The plain right rotate (R120): bit 0 goes to bit 7 and to CY. -/
def State.rotateRight (s : State) : State :=
  s.writeResult .rot (aluRotate (s.a.getLsbD 0) s.a) false

/-- The right rotate through carry (R121): the previous CY goes to bit 7, bit 0 to CY. -/
def State.rotateRightCarry (s : State) : State :=
  s.writeResult .rot (aluRotate s.flags.cy s.a) false

/-- RRC (R120). -/
def execRrc (s : State) : Host.Outcome State Fault Refusal := .next (s.rotateRight.advance 1)

/-- RAR (R121). -/
def execRar (s : State) : Host.Outcome State Fault Refusal := .next (s.rotateRightCarry.advance 1)

end Sys2Proof.Machine
end

