-- ==== Sys2Proof/Machine/System.lean ====
section
/-! DEFINITION. System instructions: HLT, the only one (R160, R161). -/

namespace Sys2Proof.Machine

/-- HLT (R160): pc past the instruction, run_state Halted. -/
def execHlt (s : State) : Host.Outcome State Fault Refusal := .next (s.advance 1).enterHalted

end Sys2Proof.Machine
end

