-- ==== Sys2Proof/Machine/Fetch.lean ====
section
/-! DEFINITION. Fetching an instruction (R81 to R83): the opcode at pc, then as many operand bytes as its
format has, in ascending order, addresses wrapping (R47). -/

namespace Sys2Proof.Machine

/-- The opcode byte at pc (R81). -/
def State.opcode (s : State) : Byte := s.readByte s.pc

/-- The operand byte number `k` (1 or 2) of the instruction at pc (R83). -/
def State.operandByte (s : State) (k : Word) : Byte := s.readByte (s.pc + k)

/-- The instruction at pc: only the bytes its format has are read (R83); none for an unbound opcode, whose
operand bytes do not exist (R61, R172). -/
def fetchInstr (s : State) : Option Instr :=
  match dispatch s.opcode with
  | .unbound => none
  | .f1 i => some i
  | .f2 mk => some (mk (s.operandByte 1))
  | .f3 mk => some (mk (pairWord (s.operandByte 2) (s.operandByte 1)))

/-- The three bytes at pc, as many as the longest instruction has (R60). -/
def State.codeBytes (s : State) : List Byte := [s.opcode, s.operandByte 1, s.operandByte 2]

/-- IR latches the opcode fetched (R27, R87: S_FETCH). -/
def State.latchOpcode (s : State) : State := { s with ir := s.opcode }

/-- Writes a byte string where the next instruction is fetched from. -/
def placeCode (s : State) (bytes : List Byte) : State :=
  match bytes with
  | [b₀, b₁, b₂] =>
    ((s.writeByte s.pc b₀).writeByte (s.pc + 1) b₁).writeByte (s.pc + 2) b₂
  | _ => s

/-- What the next step needs to run the instruction placed at pc: a Running machine (R80). -/
def makeRunning (s : State) : State := { s with runState := .running }

end Sys2Proof.Machine
end

