-- ==== Sys2Proof/Machine/Step.lean ====
section
/-! DEFINITION. One step (R80): an instruction of a Running machine, or nothing. -/

namespace Sys2Proof.Machine

/-- One step of the machine (R80): fetch the opcode, dispatch, run the handler; an unbound opcode takes the
fatal path (R172). Halted and Faulted are absorbing (R24). -/
def step (s : State) : Host.Outcome State Fault Refusal :=
  match s.runState with
  | .running =>
    match fetchInstr s with
    | some i => exec i s.latchOpcode
    | none => .next (s.raiseUnimplemented s.pc s.opcode)
  | .halted => .next s
  | .faulted => .next s

/-- The state with an instruction, given as one number in the opcode table's numbering, stored at pc, and
Running, so that the next step fetches and runs it. It stands for the host's load (R191, log entry 6). -/
def State.withFetchWord (s : State) (nbits w : Nat) : State :=
  makeRunning (placeCode s (tableBytes nbits w))

end Sys2Proof.Machine
end

