-- ==== Sys2Proof/Machine/Fsm.lean ====
section
/-! DEFINITION. fetch_decode_execute_fsm (R87): the same machine one phase at a time, with the byte access of
each phase on the memory port (R88, R89) and the reset input (R190, R195). `step` does not use it; that the
two agree is a statement. A tick is one phase and says nothing about clock cycles (R87, R194; log entry 9). -/

namespace Sys2Proof.Machine

/-- The phases of R87. -/
inductive Phase where
  | reset | fetch | decode | opdLo | opdHi | memRd | popLo | popHi | pushHi | pushLo | exec | halt | fault
  deriving DecidableEq, Repr

/-- The circuit between two phases: the state, and the phase that runs next. -/
structure Fsm where
  /-- Registers, latches and memory, in the middle of an instruction too. -/
  state : State
  /-- The phase that runs at the next tick. -/
  phase : Phase
  deriving DecidableEq, Repr

/-- What a phase does on the memory port (R88): at most one access, and never a read and a write together. -/
inductive Access where
  /-- `mem_rd` = 1 at this address. -/
  | read (addr : Word)
  /-- `mem_wr` = 1 at this address with this `mem_wdata`. -/
  | write (addr : Word) (data : Byte)
  deriving DecidableEq, Repr

/-- The memory port in the phase that runs next (R87, R88); `none`: neither strobe is 1. -/
def portAccess (m : Fsm) : Option Access :=
  match m.phase with
  | .reset => none
  | .fetch => some (.read m.state.pc)
  | .decode => none
  | .opdLo => some (.read m.state.pc)
  | .opdHi => some (.read m.state.pc)
  | .memRd => some (.read m.state.hl)
  | .popLo => some (.read m.state.sp)
  | .popHi => some (.read m.state.sp)
  | .pushHi => some (.write (m.state.sp - 1) (hiByte m.state.pc))
  | .pushLo => some (.write (m.state.sp - 1) (loByte m.state.pc))
  | .exec => none
  | .halt => none
  | .fault => none

/-- The phase S_DECODE goes to (R87): by the format, with ADD M, RET and HLT apart. -/
def phaseAfterDecode (ir : Byte) : Phase :=
  match dispatch ir with
  | .unbound => .fault
  | .f1 i => if i = .addM then .memRd else if i = .ret then .popLo else if i = .hlt then .halt else .exec
  | .f2 _ => .opdLo
  | .f3 _ => .opdLo

/-- The phase S_OPD_LO goes to (R87): format F3 has a second operand byte. -/
def phaseAfterOpdLo (ir : Byte) : Phase :=
  match dispatch ir with
  | .unbound => .exec
  | .f1 _ => .exec
  | .f2 _ => .exec
  | .f3 _ => .opdHi

/-- The phase S_OPD_HI goes to (R87): CALL pushes first. -/
def phaseAfterOpdHi (ir : Byte) : Phase := if ir = opcodeOf (.call 0) then .pushHi else .exec

/-- The instruction in the latches: IR, with Z_lo and W_hi as its operand bytes (R87). -/
def latchedInstr (s : State) : Option Instr :=
  match dispatch s.ir with
  | .unbound => none
  | .f1 i => some i
  | .f2 mk => some (mk s.zLo)
  | .f3 mk => some (mk (pairWord s.wHi s.zLo))

/-- `pc <- W_hi:Z_lo` (R87, S_EXEC). -/
def jumpToLatches (s : State) : State := s.jumpTo (pairWord s.wHi s.zLo)

/-- S_EXEC of a conditional jump (R87): pc is already past the instruction. -/
def execCondPhase (cond : Cond) (s : State) : State :=
  if cond.holds s.flags then jumpToLatches s else s

/-- S_EXEC (R87): the ALU operation, the accumulator and flag write, or the control transfer. pc is already
at the next instruction. HLT and an unbound opcode never reach this phase (log entry 10). -/
def execPhase (s : State) : State :=
  match latchedInstr s with
  | none => s
  | some i =>
    match i with
    | .rrc => s.rotateRight
    | .rar => s.rotateRightCarry
    | .cma => s.complementA
    | .hlt => s
    | .addB => s.add8 s.b
    | .addC => s.add8 s.c
    | .addD => s.add8 s.d
    | .addE => s.add8 s.e
    | .addH => s.add8 s.h
    | .addL => s.add8 s.l
    | .addM => s.add8 s.zLo
    | .addA => s.add8 s.a
    | .jnz _ => execCondPhase .nz s
    | .jmp _ => jumpToLatches s
    | .adi _ => s.add8 s.zLo
    | .ret => jumpToLatches s
    | .jz _ => execCondPhase .z s
    | .call _ => jumpToLatches s
    | .jnc _ => execCondPhase .nc s
    | .jc _ => execCondPhase .c s
    | .jpo _ => execCondPhase .po s
    | .ani _ => s.and8 s.zLo
    | .jpe _ => execCondPhase .pe s
    | .jp _ => execCondPhase .p s
    | .jm _ => execCondPhase .m s

/-- S_HALT (R87): its action once, then it stays (log entry 10). -/
def haltPhase (s : State) : State := s.enterHalted

/-- S_FAULT (R87): pc back on the opcode and Faulted, once; then it stays (log entry 10). -/
def faultPhase (s : State) : State :=
  if s.runState = .running then s.raiseUnimplemented (s.pc - 1) s.ir else s

/-- One phase with `reset` = 0 (R87). -/
def tick (m : Fsm) : Fsm :=
  let s := m.state
  match m.phase with
  | .reset => { state := s, phase := .fetch }
  | .fetch => { state := { s with ir := s.readByte s.pc, pc := s.pc + 1 }, phase := .decode }
  | .decode => { state := s, phase := phaseAfterDecode s.ir }
  | .opdLo => { state := { s with zLo := s.readByte s.pc, pc := s.pc + 1 }, phase := phaseAfterOpdLo s.ir }
  | .opdHi => { state := { s with wHi := s.readByte s.pc, pc := s.pc + 1 }, phase := phaseAfterOpdHi s.ir }
  | .memRd => { state := { s with zLo := s.readByte s.hl }, phase := .exec }
  | .popLo => { state := { s with zLo := s.readByte s.sp, sp := s.sp + 1 }, phase := .popHi }
  | .popHi => { state := { s with wHi := s.readByte s.sp, sp := s.sp + 1 }, phase := .exec }
  | .pushHi => { state := { s.writeByte (s.sp - 1) (hiByte s.pc) with sp := s.sp - 1 }, phase := .pushLo }
  | .pushLo => { state := { s.writeByte (s.sp - 1) (loByte s.pc) with sp := s.sp - 1 }, phase := .exec }
  | .exec => { state := execPhase s, phase := .fetch }
  | .halt => { state := haltPhase s, phase := .halt }
  | .fault => { state := faultPhase s, phase := .fault }

/-- A tick with the `reset` input (R88, R190): while it is 1 the state takes its reset values, whatever phase
the circuit is in (R195), and no memory access is made. -/
def clockPhase (resetInput : Bool) (m : Fsm) : Fsm :=
  if resetInput then { state := m.state.applyReset, phase := .reset } else tick m

/-- `n` phases with `reset` = 0. -/
def runPhases : Nat → Fsm → Fsm
  | 0, m => m
  | n + 1, m => runPhases n (tick m)

/-- The memory accesses of `n` phases, in order of time. -/
def accessTrace : Nat → Fsm → List Access
  | 0, _ => []
  | n + 1, m => (portAccess m).toList ++ accessTrace n (tick m)

/-- The number of phases of the instruction an opcode starts, from S_FETCH to its last (R87). -/
def phaseCount (op : Byte) : Nat :=
  match dispatch op with
  | .unbound => 3
  | .f1 i => if i = .addM then 4 else if i = .ret then 5 else 3
  | .f2 _ => 4
  | .f3 _ => if op = opcodeOf (.call 0) then 7 else 5

/-- Where the circuit stands between two instructions: S_FETCH while Running, else the absorbing phase. -/
def phaseOfRunState : RunState → Phase
  | .running => .fetch
  | .halted => .halt
  | .faulted => .fault

end Sys2Proof.Machine
end

