-- ==== Sys2Proof/Safety.lean ====
section
/-! DEFINITION. What the statements are made of: what two states have in common (the frames), the invariant
that every step keeps, and which opcodes may write which state. -/

namespace Sys2Proof.Machine

/-- B, C, D, E, H and L are as before (R13: "No bound instruction writes B, C, D, E, H or L"). -/
def SameGeneral (s t : State) : Prop :=
  t.b = s.b ∧ t.c = s.c ∧ t.d = s.d ∧ t.e = s.e ∧ t.h = s.h ∧ t.l = s.l

/-- Every general register, the accumulator too, is as before. -/
def SameRegisters (s t : State) : Prop := t.a = s.a ∧ SameGeneral s t

/-- Every byte of memory reads as before. -/
def SameMemory (s t : State) : Prop := ∀ addr : Word, t.readByte addr = s.readByte addr

/-- inte, run_state and IR are as before. -/
def SameControl (s t : State) : Prop := t.inte = s.inte ∧ t.runState = s.runState ∧ t.ir = s.ir

/-- The operand latches Z_lo and W_hi are as before. -/
def SameLatches (s t : State) : Prop := t.zLo = s.zLo ∧ t.wHi = s.wHi

/-- Z, S, P and AC are as before; CY may differ. -/
def SameFlagsButCarry (s t : State) : Prop :=
  t.flags.z = s.flags.z ∧ t.flags.s = s.flags.s ∧ t.flags.p = s.flags.p ∧ t.flags.ac = s.flags.ac

/-- The number of 1 bits of a byte, counted bit by bit (R7, `popcount`). -/
def onesOf (v : Byte) : Nat := ((List.range 8).filter (fun k => v.getLsbD k)).length

/-- Z, S and P describe the byte `r` (R131). -/
def FlagsDescribe (f : Flags) (r : Byte) : Prop :=
  (f.z = true ↔ r.toNat = 0) ∧ (f.s = true ↔ 128 ≤ r.toNat) ∧ (f.p = true ↔ onesOf r % 2 = 0)

/-- R131: "Z and S can never both be 1; Z = 1 implies P = 1 and S = 0". -/
def FlagsConsistent (f : Flags) : Prop := f.z = true → f.p = true ∧ f.s = false

/-- The bound opcodes (R65). -/
def boundOpcodes : List Byte := f1Opcodes ++ f2Opcodes ++ f3Opcodes

/-- The ranges of unbound opcodes as R66 lists them, each with its first and last value. -/
def unboundRanges : List (Nat × Nat) :=
  [(0x00, 0x0E), (0x10, 0x1E), (0x20, 0x2E), (0x30, 0x75), (0x77, 0x7F), (0x88, 0xC1), (0xC4, 0xC5),
   (0xC7, 0xC8), (0xCB, 0xCC), (0xCE, 0xD1), (0xD3, 0xD9), (0xDB, 0xE1), (0xE3, 0xE5), (0xE7, 0xE9),
   (0xEB, 0xF1), (0xF3, 0xF9), (0xFB, 0xFF)]

/-- Does the opcode lie in one of the ranges of R66? -/
def inUnboundRanges (op : Byte) : Bool :=
  unboundRanges.any (fun r => decide (r.1 ≤ op.toNat) && decide (op.toNat ≤ r.2))

/-- What R142 says of one conditional jump: it is encoded with this opcode; it answers a next state in which pc
is the operand if the condition is true and past the 3 bytes if it is false; flags, registers, sp and memory
stay. -/
def JumpsWhen (taken : Prop) (opcode : Byte) (i : Instr) (a16 : Word) (s : State) : Prop :=
  encode i = [opcode, loByte a16, hiByte a16] ∧
    ∃ t, exec i s = .next t ∧
      (taken → t.pc = a16) ∧ (¬taken → t.pc.toNat = (s.pc.toNat + 3) % 65536) ∧
      t.sp = s.sp ∧ t.flags = s.flags ∧ SameRegisters s t ∧ SameControl s t ∧ SameMemory s t

/-- The opcodes whose instruction writes Z, S and P (R19). -/
def resultFlagOpcodes : List Byte := [0x80, 0x81, 0x82, 0x83, 0x84, 0x85, 0x86, 0x87, 0xC6, 0xE6]

/-- The opcodes whose instruction writes CY (R19). -/
def carryOpcodes : List Byte := resultFlagOpcodes ++ [0x0F, 0x1F]

/-- The opcodes whose instruction writes the accumulator (R13). -/
def accumulatorOpcodes : List Byte := carryOpcodes ++ [0x2F]

/-- Is the instruction a control transfer that may set pc to something else than the next address (R90)? -/
def isTransfer : Instr → Bool
  | .rrc => false
  | .rar => false
  | .cma => false
  | .hlt => false
  | .addB => false
  | .addC => false
  | .addD => false
  | .addE => false
  | .addH => false
  | .addL => false
  | .addM => false
  | .addA => false
  | .jnz _ => true
  | .jmp _ => true
  | .adi _ => false
  | .ret => true
  | .jz _ => true
  | .call _ => true
  | .jnc _ => true
  | .jc _ => true
  | .jpo _ => true
  | .ani _ => false
  | .jpe _ => true
  | .jp _ => true
  | .jm _ => true

/-- The same state with another Auxiliary-Carry bit (R20). -/
def withAux (s : State) (bit : Bool) : State := { s with flags := { s.flags with ac := bit } }

/-- The same state with another interrupt-enable bit (R23). -/
def withInte (s : State) (bit : Bool) : State := { s with inte := bit }

/-- One instruction executed `n` times in a row, for the rotation cycles of R120 and R121. -/
def execTimes (i : Instr) : Nat → State → Option State
  | 0, s => some s
  | n + 1, s =>
    match exec i s with
    | .next t => execTimes i n t
    | .fault _ => none
    | .refused _ => none

/-- A state that has not taken the fatal path (R24): what a safe run never leaves. -/
def State.Safe (s : State) : Prop := s.runState ≠ .faulted

/-- The invariant of the machine: memory in canonical form (the model's own choice, log entry 2); Z, S and P
consistent (R131); a Faulted core has pc on the unbound opcode that IR holds (R25); a Halted core has HLT's
opcode in IR (R160). -/
structure Inv (s : State) : Prop where
  /-- The canonical form of memory: the model's own choice, log entry 2. -/
  memory : Memory.wf s.mem = true
  /-- The result flags are those of some result, or none has been written yet. -/
  flags : FlagsConsistent s.flags
  /-- The fault record (R25). -/
  faulted : s.runState = .faulted → s.readByte s.pc = s.ir ∧ s.ir ∉ boundOpcodes
  /-- Why the core is Halted (R86). -/
  halted : s.runState = .halted → s.ir = 0x76

end Sys2Proof.Machine
end

