-- ==== Sys2Proof/Certificates/Slice0/Obligations.lean ====
section
/-! DEFINITION. The statements for the provers. A statement that an instruction completes has no hypothesis:
every bound instruction runs in every state (R170). The state `exec` is given has pc at the opcode (`pc0`). -/

open Sys2Proof Sys2Proof.Machine

/-! ## Encoding -/

/-- Decoding what the encoder writes gives the instruction back, whatever bytes follow (R60 to R65). -/
def Obligations.DecodeOfEncode : Prop :=
  ∀ (i : Instr) (rest : List Byte), i.wellFormed = true → decode (encode i ++ rest) = .ok (i, rest)

/-- Each byte string has one reading: a string that decodes to an instruction begins with that instruction's
bytes (R60 to R65). -/
def Obligations.EncodeOfDecode : Prop :=
  ∀ (bytes : List Byte) (i : Instr) (rest : List Byte),
    decode bytes = .ok (i, rest) → bytes = encode i ++ rest

/-- R65, the opcode table row by row: each opcode, its length and its operand bytes. -/
def Obligations.OpcodeTableRows : Prop :=
  decode [0x0F] = .ok (.rrc, []) ∧ decode [0x1F] = .ok (.rar, []) ∧
  decode [0x2F] = .ok (.cma, []) ∧ decode [0x76] = .ok (.hlt, []) ∧
  decode [0x80] = .ok (.addB, []) ∧ decode [0x81] = .ok (.addC, []) ∧
  decode [0x82] = .ok (.addD, []) ∧ decode [0x83] = .ok (.addE, []) ∧
  decode [0x84] = .ok (.addH, []) ∧ decode [0x85] = .ok (.addL, []) ∧
  decode [0x86] = .ok (.addM, []) ∧ decode [0x87] = .ok (.addA, []) ∧
  decode [0xC9] = .ok (.ret, []) ∧
  (∀ d8 : Byte, decode [0xC6, d8] = .ok (.adi d8, []) ∧ decode [0xE6, d8] = .ok (.ani d8, [])) ∧
  (∀ lo hi : Byte,
    decode [0xC2, lo, hi] = .ok (.jnz (pairWord hi lo), []) ∧
    decode [0xC3, lo, hi] = .ok (.jmp (pairWord hi lo), []) ∧
    decode [0xCA, lo, hi] = .ok (.jz (pairWord hi lo), []) ∧
    decode [0xCD, lo, hi] = .ok (.call (pairWord hi lo), []) ∧
    decode [0xD2, lo, hi] = .ok (.jnc (pairWord hi lo), []) ∧
    decode [0xDA, lo, hi] = .ok (.jc (pairWord hi lo), []) ∧
    decode [0xE2, lo, hi] = .ok (.jpo (pairWord hi lo), []) ∧
    decode [0xEA, lo, hi] = .ok (.jpe (pairWord hi lo), []) ∧
    decode [0xF2, lo, hi] = .ok (.jp (pairWord hi lo), []) ∧
    decode [0xFA, lo, hi] = .ok (.jm (pairWord hi lo), [])) ∧
  (∀ (op : Byte) (rest : List Byte), op ∉ boundOpcodes → decode (op :: rest) = .error (.unimplemented op))

/-- R66: the unbound opcodes are the 231 values of the listed ranges, exactly those that are not in the table,
and fetching one takes the fatal path. -/
def Obligations.UnboundOpcodesTakeFatalPath : Prop :=
  (∀ op : Byte, (isBound op = false ↔ inUnboundRanges op = true) ∧
    (op ∉ boundOpcodes ↔ inUnboundRanges op = true)) ∧
  ((List.range 256).filter (fun n => inUnboundRanges (BitVec.ofNat 8 n))).length = 231 ∧
  (∀ s : State, s.runState = .running → inUnboundRanges (s.readByte s.pc) = true →
    step s = .next { s with runState := .faulted, ir := s.readByte s.pc })

/-- R62: the address operand is `256*hi + lo`, taken apart and put together without loss, and the immediate byte
and the address are used as they are. -/
def Obligations.AddressOperandAssembly : Prop :=
  (∀ hi lo : Byte, (pairWord hi lo).toNat = 256 * hi.toNat + lo.toNat) ∧
  (∀ w : Word, (hiByte w).toNat = w.toNat / 256 ∧ (loByte w).toNat = w.toNat % 256) ∧
  (∀ (lo hi : Byte) (a16 : Word), decode [0xC3, lo, hi] = .ok (.jmp a16, []) ↔
    a16.toNat = 256 * hi.toNat + lo.toNat) ∧
  (∀ d8 : Byte, decode [0xC6, d8] = .ok (.adi d8, []) ∧ decode [0xE6, d8] = .ok (.ani d8, [])) ∧
  (∀ (d8 : Byte) (a16 : Word) (s : State),
    (∃ t, exec (.adi d8) s = .next t ∧ t.a.toNat = (s.a.toNat + d8.toNat) % 256) ∧
    (∃ t, exec (.ani d8) s = .next t ∧ t.a.toNat = s.a.toNat &&& d8.toNat) ∧
    (∃ t, exec (.jmp a16) s = .next t ∧ t.pc = a16))

/-- R63: the opcode of ADD r is `10000sss` with the register's code; 110 is ADD M. -/
def Obligations.AddOpcodeRegisterField : Prop :=
  (∀ r : Reg, encode (addInstr r) = [(0b10000#5 ++ r.code : BitVec 8)]) ∧
  encode .addM = [(0b10000#5 ++ memOperandCode : BitVec 8)] ∧
  (∀ r : Reg, r.code ≠ memOperandCode) ∧
  (Reg.b.code = 0b000 ∧ Reg.c.code = 0b001 ∧ Reg.d.code = 0b010 ∧ Reg.e.code = 0b011 ∧
    Reg.h.code = 0b100 ∧ Reg.l.code = 0b101 ∧ Reg.a.code = 0b111 ∧ memOperandCode = 0b110)

/-- R64: the opcode of a conditional jump is `11ccc010`, and each code tests its flag for its value. -/
def Obligations.JumpOpcodeConditionField : Prop :=
  (∀ (cond : Cond) (a16 : Word), encode (jumpInstr cond a16) =
    [(0b11#2 ++ cond.code ++ 0b010#3 : BitVec 8), loByte a16, hiByte a16]) ∧
  (Cond.nz.code = 0b000 ∧ Cond.z.code = 0b001 ∧ Cond.nc.code = 0b010 ∧ Cond.c.code = 0b011 ∧
    Cond.po.code = 0b100 ∧ Cond.pe.code = 0b101 ∧ Cond.p.code = 0b110 ∧ Cond.m.code = 0b111) ∧
  (∀ f : Flags,
    (Cond.nz.holds f = true ↔ f.z = false) ∧ (Cond.z.holds f = true ↔ f.z = true) ∧
    (Cond.nc.holds f = true ↔ f.cy = false) ∧ (Cond.c.holds f = true ↔ f.cy = true) ∧
    (Cond.po.holds f = true ↔ f.p = false) ∧ (Cond.pe.holds f = true ↔ f.p = true) ∧
    (Cond.p.holds f = true ↔ f.s = false) ∧ (Cond.m.holds f = true ↔ f.s = true))

/-- The length of an instruction is fixed by its opcode byte, is 1, 2 or 3, and is what decoding uses up (R60,
R61). -/
def Obligations.LengthFixedByOpcode : Prop :=
  ∀ (bytes : List Byte) (i : Instr) (rest : List Byte), decode bytes = .ok (i, rest) →
    ∃ op tail, bytes = op :: tail ∧ lengthOfOpcode op = some (instrLength i) ∧
      bytes.length = instrLength i + rest.length ∧ 1 ≤ instrLength i ∧ instrLength i ≤ 3

/-! ## Flags -/

/-- R130: parity masks to the width, counts the 1 bits and reports even; it is the negated XOR of the bits; and
the worked values. -/
def Obligations.ParityCountsOnes : Prop :=
  (∀ v w : Nat, parity v w = true ↔ ((List.range w).filter (fun k => v.testBit k)).length % 2 = 0) ∧
  (∀ v w : Nat, parity v w = !((List.range w).foldl (fun acc k => acc ^^ v.testBit k) false)) ∧
  (∀ v w : Nat, parity v w = parity (v % 2 ^ w) w) ∧
  (parity 0x00 8 = true ∧ parity 0x01 8 = false ∧ parity 0x03 8 = true ∧ parity 0xFF 8 = true ∧
    parity 0x80 8 = false ∧ parity 0x07 8 = false ∧ parity 0x0F 8 = true ∧ parity 0x103 8 = true)

/-- R131: Z, S and P of a result; CY and AC hold; Z and S are never both 1, and Z = 1 implies P = 1, S = 0; and
the adder and ANI write Z, S and P so. -/
def Obligations.ResultFlagsOfByte : Prop :=
  (∀ (f : Flags) (r : Byte),
    FlagsDescribe (f.zsp r) r ∧ (f.zsp r).cy = f.cy ∧ (f.zsp r).ac = f.ac ∧
    ¬((f.zsp r).z = true ∧ (f.zsp r).s = true) ∧
    ((f.zsp r).z = true → (f.zsp r).p = true ∧ (f.zsp r).s = false)) ∧
  (∀ (s : State) (y : Byte),
    ({ (s.add8 y).flags with cy := s.flags.cy } : Flags) = s.flags.zsp (s.add8 y).a ∧
    ∃ t, exec (.ani y) s = .next t ∧ ({ t.flags with cy := s.flags.cy } : Flags) = s.flags.zsp t.a)

/-- The table of the flags unit, class by class (R132, which the spec derives from the instructions' rules). -/
def Obligations.FlagsUnitClasses : Prop :=
  ∀ (r : Byte) (carryOut bitOut : Bool) (f : Flags),
    (FlagsDescribe (flagsUnit .add r carryOut bitOut f) r ∧
      (flagsUnit .add r carryOut bitOut f).cy = carryOut ∧ (flagsUnit .add r carryOut bitOut f).ac = f.ac) ∧
    (FlagsDescribe (flagsUnit .and r carryOut bitOut f) r ∧
      (flagsUnit .and r carryOut bitOut f).cy = false ∧ (flagsUnit .and r carryOut bitOut f).ac = f.ac) ∧
    flagsUnit .rot r carryOut bitOut f = { f with cy := bitOut } ∧
    flagsUnit .none r carryOut bitOut f = f

/-! ## Arithmetic -/

/-- R100: the one adder. Its sum, its four flags, AC held, nothing else written; and the three forms (a
register, the memory cell at HL, an immediate byte) all leave the accumulator and the flags it gives. -/
def Obligations.SharedAdder : Prop :=
  (∀ (s : State) (y : Byte),
    (s.add8 y).a.toNat = (s.a.toNat + y.toNat) % 256 ∧
    ((s.add8 y).flags.z = true ↔ (s.a.toNat + y.toNat) % 256 = 0) ∧
    ((s.add8 y).flags.s = true ↔ (s.add8 y).a.getLsbD 7 = true) ∧
    ((s.add8 y).flags.p = true ↔ onesOf (s.add8 y).a % 2 = 0) ∧
    ((s.add8 y).flags.cy = true ↔ 255 < s.a.toNat + y.toNat) ∧
    (s.add8 y).flags.ac = s.flags.ac ∧
    SameGeneral s (s.add8 y) ∧ SameMemory s (s.add8 y) ∧ SameControl s (s.add8 y) ∧
    SameLatches s (s.add8 y) ∧ (s.add8 y).pc = s.pc ∧ (s.add8 y).sp = s.sp) ∧
  (∀ (s : State) (r : Reg) (y : Byte),
    (∃ t, exec (addInstr r) s = .next t ∧ t.a = (s.add8 (s.reg r)).a ∧ t.flags = (s.add8 (s.reg r)).flags) ∧
    (∃ t, exec .addM s = .next t ∧ t.a = (s.add8 (s.readByte s.hl)).a ∧
      t.flags = (s.add8 (s.readByte s.hl)).flags) ∧
    (∃ t, exec (.adi y) s = .next t ∧ t.a = (s.add8 y).a ∧ t.flags = (s.add8 y).flags))

/-- R101, ADD B, ADD C, ADD D, ADD E, ADD H, ADD L, ADD A, in every state: the encoding, the sum, the flags, pc,
and the frame. The register is read before the accumulator is written (ADD A doubles it). -/
def Obligations.AddRegisterEffect : Prop :=
  ∀ (r : Reg) (s : State),
    encode (addInstr r) = [(0b10000#5 ++ r.code : BitVec 8)] ∧
    ∃ t, exec (addInstr r) s = .next t ∧
      t.a.toNat = (s.a.toNat + (s.reg r).toNat) % 256 ∧
      FlagsDescribe t.flags t.a ∧ (t.flags.cy = true ↔ 255 < s.a.toNat + (s.reg r).toNat) ∧
      t.flags.ac = s.flags.ac ∧
      t.pc.toNat = (s.pc.toNat + 1) % 65536 ∧ t.sp = s.sp ∧
      SameGeneral s t ∧ SameControl s t ∧ SameLatches s t ∧ SameMemory s t

/-- R102, ADD M, in every state: the byte at HL is added; H and L and memory stay. -/
def Obligations.AddMemoryEffect : Prop :=
  ∀ s : State,
    encode .addM = [0x86] ∧
    ∃ t, exec .addM s = .next t ∧
      t.a.toNat = (s.a.toNat + (s.readByte (pairWord s.h s.l)).toNat) % 256 ∧
      FlagsDescribe t.flags t.a ∧
      (t.flags.cy = true ↔ 255 < s.a.toNat + (s.readByte (pairWord s.h s.l)).toNat) ∧
      t.flags.ac = s.flags.ac ∧
      t.pc.toNat = (s.pc.toNat + 1) % 65536 ∧ t.sp = s.sp ∧
      SameGeneral s t ∧ SameControl s t ∧ SameMemory s t

/-- R103, ADI d8, in every state and for every d8. -/
def Obligations.AddImmediateEffect : Prop :=
  ∀ (d8 : Byte) (s : State),
    encode (.adi d8) = [0xC6, d8] ∧
    ∃ t, exec (.adi d8) s = .next t ∧
      t.a.toNat = (s.a.toNat + d8.toNat) % 256 ∧
      FlagsDescribe t.flags t.a ∧ (t.flags.cy = true ↔ 255 < s.a.toNat + d8.toNat) ∧
      t.flags.ac = s.flags.ac ∧
      t.pc.toNat = (s.pc.toNat + 2) % 65536 ∧ t.sp = s.sp ∧
      SameGeneral s t ∧ SameControl s t ∧ SameMemory s t

/-- The law of addition, said of ADI (R104): the sum is `256*CY' + A'`, and it is commutative in the result and
in the flags. -/
def Obligations.AdditionLaw : Prop :=
  (∀ (d8 : Byte) (s : State), ∃ t, exec (.adi d8) s = .next t ∧
    s.a.toNat + d8.toNat = 256 * t.flags.cy.toNat + t.a.toNat) ∧
  (∀ (x y : Byte) (s : State), ∃ t u,
    exec (.adi y) { s with a := x } = .next t ∧ exec (.adi x) { s with a := y } = .next u ∧
    t.a = u.a ∧ t.flags = u.flags)

/-! ## Logic and rotates -/

/-- R110, ANI d8, in every state and for every d8: bit by bit AND, Z, S, P from the result, CY forced to 0, AC
held. -/
def Obligations.AndImmediateEffect : Prop :=
  ∀ (d8 : Byte) (s : State),
    encode (.ani d8) = [0xE6, d8] ∧
    ∃ t, exec (.ani d8) s = .next t ∧
      (∀ k < 8, t.a.getLsbD k = (s.a.getLsbD k && d8.getLsbD k)) ∧
      FlagsDescribe t.flags t.a ∧ t.flags.cy = false ∧ t.flags.ac = s.flags.ac ∧
      t.pc.toNat = (s.pc.toNat + 2) % 65536 ∧ t.sp = s.sp ∧
      SameGeneral s t ∧ SameControl s t ∧ SameMemory s t

/-- R111, CMA, in every state: `255 - A`, no flag written, and twice restores A. -/
def Obligations.ComplementEffect : Prop :=
  ∀ s : State,
    encode .cma = [0x2F] ∧
    ∃ t, exec .cma s = .next t ∧
      t.a.toNat = 255 - s.a.toNat ∧ t.flags = s.flags ∧
      t.pc.toNat = (s.pc.toNat + 1) % 65536 ∧ t.sp = s.sp ∧
      SameGeneral s t ∧ SameControl s t ∧ SameLatches s t ∧ SameMemory s t ∧
      ∃ u, exec .cma t = .next u ∧ u.a = s.a

/-- R120, RRC, in every state: bit 0 goes to bit 7 and to CY, every other bit one place down. -/
def Obligations.RotateRightEffect : Prop :=
  ∀ s : State,
    encode .rrc = [0x0F] ∧
    ∃ t, exec .rrc s = .next t ∧
      t.a.getLsbD 7 = s.a.getLsbD 0 ∧ (∀ k < 7, t.a.getLsbD k = s.a.getLsbD (k + 1)) ∧
      t.flags.cy = s.a.getLsbD 0 ∧ SameFlagsButCarry s t ∧
      t.pc.toNat = (s.pc.toNat + 1) % 65536 ∧ t.sp = s.sp ∧
      SameGeneral s t ∧ SameControl s t ∧ SameLatches s t ∧ SameMemory s t

/-- R121, RAR, in every state: the previous CY goes to bit 7, bit 0 to CY, every other bit one place down. -/
def Obligations.RotateThroughCarryEffect : Prop :=
  ∀ s : State,
    encode .rar = [0x1F] ∧
    ∃ t, exec .rar s = .next t ∧
      t.a.getLsbD 7 = s.flags.cy ∧ (∀ k < 7, t.a.getLsbD k = s.a.getLsbD (k + 1)) ∧
      t.flags.cy = s.a.getLsbD 0 ∧ SameFlagsButCarry s t ∧
      t.pc.toNat = (s.pc.toNat + 1) % 65536 ∧ t.sp = s.sp ∧
      SameGeneral s t ∧ SameControl s t ∧ SameLatches s t ∧ SameMemory s t

/-- R122: of the flags, RRC and RAR change CY only, whatever the new accumulator is. -/
def Obligations.RotatesChangeOnlyCarry : Prop :=
  ∀ (i : Instr) (s : State), i = .rrc ∨ i = .rar →
    ∃ t, exec i s = .next t ∧ SameFlagsButCarry s t

/-- The rotation cycles (R120, R121, corner cases): eight RRCs restore A, and CY then equals A[7]; nine RARs
restore both A and CY. -/
def Obligations.RotationCycles : Prop :=
  ∀ s : State,
    (∃ t, execTimes .rrc 8 s = some t ∧ t.a = s.a ∧ t.flags.cy = s.a.getLsbD 7) ∧
    (∃ t, execTimes .rar 9 s = some t ∧ t.a = s.a ∧ t.flags = s.flags)

/-! ## Control transfer -/

/-- R140, JMP a16, in every state and for every target. -/
def Obligations.JumpEffect : Prop :=
  ∀ (a16 : Word) (s : State),
    encode (.jmp a16) = [0xC3, loByte a16, hiByte a16] ∧
    ∃ t, exec (.jmp a16) s = .next t ∧
      t.pc = a16 ∧ t.sp = s.sp ∧ t.flags = s.flags ∧
      SameRegisters s t ∧ SameControl s t ∧ SameMemory s t

/-- R141, R142 and R143 to R150: JNZ, JZ, JNC, JC, JPO, JPE, JP, JM, in every state and for every target: the
jump is taken exactly when the tested flag has the tested value, else pc is past the 3 bytes; nothing else
changes. -/
def Obligations.ConditionalJumpEffect : Prop :=
  ∀ (a16 : Word) (s : State),
    JumpsWhen (s.flags.z = false) 0xC2 (.jnz a16) a16 s ∧ JumpsWhen (s.flags.z = true) 0xCA (.jz a16) a16 s ∧
    JumpsWhen (s.flags.cy = false) 0xD2 (.jnc a16) a16 s ∧ JumpsWhen (s.flags.cy = true) 0xDA (.jc a16) a16 s ∧
    JumpsWhen (s.flags.p = false) 0xE2 (.jpo a16) a16 s ∧ JumpsWhen (s.flags.p = true) 0xEA (.jpe a16) a16 s ∧
    JumpsWhen (s.flags.s = false) 0xF2 (.jp a16) a16 s ∧ JumpsWhen (s.flags.s = true) 0xFA (.jm a16) a16 s

/-- R151, Push16: the high byte at sp - 1, the low byte at sp - 2, sp down by 2, so that MemRead(sp, 2) gives
the value; every other byte and everything else stays. -/
def Obligations.PushContract : Prop :=
  ∀ (s : State) (v : Word),
    (s.push16 v).sp.toNat = (s.sp.toNat + 65534) % 65536 ∧
    (s.push16 v).readByte (s.sp - 1) = hiByte v ∧ (s.push16 v).readByte (s.sp - 2) = loByte v ∧
    s.sp - 1 ≠ s.sp - 2 ∧
    (s.push16 v).readWord (s.push16 v).sp = v ∧
    (∀ addr : Word, addr ≠ s.sp - 1 → addr ≠ s.sp - 2 → (s.push16 v).readByte addr = s.readByte addr) ∧
    SameRegisters s (s.push16 v) ∧ SameControl s (s.push16 v) ∧ SameLatches s (s.push16 v) ∧
    (s.push16 v).flags = s.flags ∧ (s.push16 v).pc = s.pc

/-- R152, Pop16: low byte at sp, high byte at sp + 1, sp up by 2, memory untouched; and a pop right after a push
returns the value and restores sp. -/
def Obligations.PopContract : Prop :=
  (∀ s : State,
    s.pop16.1 = pairWord (s.readByte (s.sp + 1)) (s.readByte s.sp) ∧
    s.pop16.2.sp.toNat = (s.sp.toNat + 2) % 65536 ∧
    SameMemory s s.pop16.2 ∧ SameRegisters s s.pop16.2 ∧ SameControl s s.pop16.2 ∧
    SameLatches s s.pop16.2 ∧ s.pop16.2.flags = s.flags ∧ s.pop16.2.pc = s.pc) ∧
  (∀ (s : State) (v : Word), (s.push16 v).pop16.1 = v ∧ (s.push16 v).pop16.2.sp = s.sp)

/-- R153, CALL a16, in every state and for every target: the return address pc0 + 3 on the stack, pc at the
target, sp down by 2; every byte of memory but the two at sp - 1 and sp - 2 stays. -/
def Obligations.CallEffect : Prop :=
  ∀ (a16 : Word) (s : State),
    encode (.call a16) = [0xCD, loByte a16, hiByte a16] ∧
    ∃ t, exec (.call a16) s = .next t ∧
      t.pc = a16 ∧ t.sp.toNat = (s.sp.toNat + 65534) % 65536 ∧
      (t.readByte (s.sp - 1)).toNat = (s.pc.toNat + 3) % 65536 / 256 ∧
      (t.readByte (s.sp - 2)).toNat = (s.pc.toNat + 3) % 65536 % 256 ∧
      (∀ addr : Word, addr ≠ s.sp - 1 → addr ≠ s.sp - 2 → t.readByte addr = s.readByte addr) ∧
      t.flags = s.flags ∧ SameRegisters s t ∧ SameControl s t

/-- R154, RET, in every state: pc is the address popped, sp up by 2, memory untouched. -/
def Obligations.ReturnEffect : Prop :=
  ∀ s : State,
    encode .ret = [0xC9] ∧
    ∃ t, exec .ret s = .next t ∧
      t.pc.toNat = 256 * (s.readByte (s.sp + 1)).toNat + (s.readByte s.sp).toNat ∧
      t.sp.toNat = (s.sp.toNat + 2) % 65536 ∧
      t.flags = s.flags ∧ SameRegisters s t ∧ SameControl s t ∧ SameMemory s t

/-- Call/return pairing (R155, which the spec derives from R151 to R154): if the code between leaves sp and the
two pushed bytes as the CALL left them, the RET goes to pc0 + 3 and restores sp. -/
def Obligations.CallReturnPairing : Prop :=
  ∀ (a16 : Word) (s t u : State), exec (.call a16) s = .next t → u.sp = t.sp →
    u.readByte (s.sp - 2) = t.readByte (s.sp - 2) → u.readByte (s.sp - 1) = t.readByte (s.sp - 1) →
    ∃ v, exec .ret u = .next v ∧ v.pc = s.pc + 3 ∧ v.sp = s.sp

/-- A CALL executes as fetched: its target is the operand as it lay in memory before the push, also where the
push overwrites the CALL's own bytes (R52, R53). -/
def Obligations.CallReadsOperandsBeforePush : Prop :=
  ∀ s : State, s.runState = .running → s.readByte s.pc = 0xCD →
    ∃ t, step s = .next t ∧ t.pc = pairWord (s.readByte (s.pc + 2)) (s.readByte (s.pc + 1)) ∧
      t.readByte (s.sp - 1) = hiByte (s.pc + 3) ∧ t.readByte (s.sp - 2) = loByte (s.pc + 3)

/-- A store is seen by the very next fetch (R52): a CALL that jumps to the bytes it pushes fetches those bytes.
-/
def Obligations.StoreSeenByNextFetch : Prop :=
  ∀ s : State, ∃ t, exec (.call (s.sp - 2)) s = .next t ∧
    t.opcode = loByte (s.pc + 3) ∧ t.operandByte 1 = hiByte (s.pc + 3)

/-- What the circuit's latches hold after each instruction (R87; that they stand in State at instruction
granularity is the model's choice, log entry 3): Z_lo and W_hi the operand bytes, ADD M's byte or the bytes
popped, a latch not loaded as before; IR is the fetch's alone. -/
def Obligations.LatchesOfInstructions : Prop :=
  (∀ (i : Instr) (s : State), ∃ t, exec i s = .next t ∧ t.ir = s.ir ∧
    (instrLength i = 1 → i ≠ .addM → i ≠ .ret → SameLatches s t) ∧
    (∀ x, operandBytes i = [x] → t.zLo = x ∧ t.wHi = s.wHi) ∧
    (∀ lo hi, operandBytes i = [lo, hi] → t.zLo = lo ∧ t.wHi = hi)) ∧
  (∀ s : State, ∃ t, exec .addM s = .next t ∧ t.zLo = s.readByte (pairWord s.h s.l) ∧ t.wHi = s.wHi) ∧
  (∀ s : State, ∃ t, exec .ret s = .next t ∧ t.zLo = s.readByte s.sp ∧ t.wHi = s.readByte (s.sp + 1))

/-! ## Halt, the exception, and the step -/

/-- R160, HLT, in every state: pc past the instruction, Halted, everything else as before; and no step changes
the state after it. -/
def Obligations.HaltEffect : Prop :=
  ∀ s : State,
    encode .hlt = [0x76] ∧
    ∃ t, exec .hlt s = .next t ∧
      t.pc.toNat = (s.pc.toNat + 1) % 65536 ∧ t.runState = .halted ∧
      t.sp = s.sp ∧ t.flags = s.flags ∧ t.inte = s.inte ∧ t.ir = s.ir ∧
      SameRegisters s t ∧ SameLatches s t ∧ SameMemory s t ∧
      t.runState.port = 0b01 ∧ t.runState.exitStatus = some 0 ∧ step t = .next t

/-- R172, taking the one exception: pc is back on the opcode, run_state is Faulted, IR holds the opcode, nothing
else changes, and the opcode is the one byte accessed. -/
def Obligations.UnimplementedTrapEntry : Prop :=
  ∀ s : State, s.runState = .running → s.readByte s.pc ∉ boundOpcodes →
    ∃ t, step s = .next t ∧
      t.pc = s.pc ∧ t.runState = .faulted ∧ t.ir = s.readByte s.pc ∧
      t.sp = s.sp ∧ t.flags = s.flags ∧ t.inte = s.inte ∧
      SameRegisters s t ∧ SameLatches s t ∧ SameMemory s t ∧ step t = .next t ∧
      accessTrace (phaseCount (s.readByte s.pc)) { state := s, phase := .fetch } = [.read s.pc]

/-- R25 and R171: after the fatal path the ports show the address and the byte of the unbound opcode, nothing
else is recorded, the one cause has the number 1, and the host reports status 1; for a Halted core it reports 0.
-/
def Obligations.FaultRecordOnPorts : Prop :=
  (∀ s : State, s.runState = .running → s.readByte s.pc ∉ boundOpcodes →
    ∃ t, step s = .next t ∧ t = { s with runState := .faulted, ir := s.readByte s.pc } ∧
      t.faultAddr = s.pc ∧ t.faultOpcode = s.readByte s.pc ∧
      t.runState.faultCause = some 1 ∧ t.runState.exitStatus = some 1) ∧
  (∀ t : State, t.faultAddr = t.pc ∧ t.faultOpcode = t.ir) ∧
  RunState.halted.exitStatus = some 0

/-- R24: Running after reset; HLT enters Halted, an unbound opcode Faulted; both are absorbing, with no memory
access, until reset; and the encoding on the port, which never drives 0b11. -/
def Obligations.StoppedStatesAbsorbing : Prop :=
  (∀ s : State, s.runState ≠ .running → step s = .next s ∧
    tick { state := s, phase := phaseOfRunState s.runState } =
      { state := s, phase := phaseOfRunState s.runState } ∧
    portAccess { state := s, phase := phaseOfRunState s.runState } = none) ∧
  (∀ s : State, s.applyReset.runState = .running) ∧
  (∀ s t : State, s.runState = .running → step s = .next t →
    (t.runState = .halted ↔ s.readByte s.pc = 0x76) ∧
    (t.runState = .faulted ↔ s.readByte s.pc ∉ boundOpcodes)) ∧
  (RunState.running.port = 0b00 ∧ RunState.halted.port = 0b01 ∧ RunState.faulted.port = 0b10) ∧
  (∀ r : RunState, r.port ≠ 0b11)

/-- A step of a Running machine is `exec` of the instruction that the bytes at pc decode to, on the same state
with the opcode latched in IR (R80 to R83). -/
def Obligations.StepRunsDecoded : Prop :=
  ∀ (s : State) (i : Instr) (rest : List Byte), s.runState = .running →
    decode [s.readByte s.pc, s.readByte (s.pc + 1), s.readByte (s.pc + 2)] = .ok (i, rest) →
    i.wellFormed = true →
    step s = exec i { s with ir := s.readByte s.pc }

/-- Nothing stops: every instruction completes in every state, and every step of every state has a next state
(R80, R170). -/
def Obligations.EveryStepCompletes : Prop :=
  (∀ (i : Instr) (s : State), ∃ t, exec i s = .next t) ∧ (∀ s : State, ∃ t, step s = .next t)

/-- The loop stops in exactly two ways (R86): a step of a Running machine ends Faulted exactly on an unbound
opcode, and Halted exactly on HLT. -/
def Obligations.StopCauses : Prop :=
  ∀ s t : State, s.runState = .running → step s = .next t →
    (¬t.Safe ↔ s.readByte s.pc ∉ boundOpcodes) ∧ (t.runState = .halted ↔ s.readByte s.pc = 0x76)

/-- R16, how pc changes in one step: an unbound opcode leaves it; JMP and CALL set it to the operand; a
conditional jump to the operand or past its 3 bytes; RET to the word popped; any other instruction goes past its
own bytes. All modulo 65,536. -/
def Obligations.ProgramCounterChanges : Prop :=
  ∀ s t : State, s.runState = .running → step s = .next t →
    (fetchInstr s = none → t.pc = s.pc) ∧
    (∀ a16, fetchInstr s = some (.jmp a16) → t.pc = a16) ∧
    (∀ a16, fetchInstr s = some (.call a16) → t.pc = a16) ∧
    (∀ cond a16, fetchInstr s = some (jumpInstr cond a16) →
      t.pc = if cond.holds s.flags then a16 else s.pc + 3) ∧
    (fetchInstr s = some .ret → t.pc = pairWord (s.readByte (s.sp + 1)) (s.readByte s.sp)) ∧
    (∀ i, fetchInstr s = some i → isTransfer i = false →
      t.pc.toNat = (s.pc.toNat + instrLength i) % 65536)

/-- Which steps change sp (R17): only CALL, by -2, and RET, by +2, modulo 65,536. -/
def Obligations.StackPointerChanges : Prop :=
  ∀ s t : State, s.runState = .running → step s = .next t →
    (s.readByte s.pc = 0xCD → t.sp = s.sp - 2) ∧ (s.readByte s.pc = 0xC9 → t.sp = s.sp + 2) ∧
    (s.readByte s.pc ≠ 0xCD → s.readByte s.pc ≠ 0xC9 → t.sp = s.sp)

/-- Who writes the flags and the accumulator (R13, R19, R21): a step changes Z, S or P only for ADD, ADI and
ANI, CY for those and RRC and RAR, A for those and CMA, and AC never. -/
def Obligations.FlagAndAccumulatorWriters : Prop :=
  ∀ s t : State, step s = .next t →
    (s.readByte s.pc ∉ resultFlagOpcodes →
      t.flags.z = s.flags.z ∧ t.flags.s = s.flags.s ∧ t.flags.p = s.flags.p) ∧
    (s.readByte s.pc ∉ carryOpcodes → t.flags = s.flags) ∧
    (s.readByte s.pc ∉ accumulatorOpcodes → t.a = s.a) ∧
    t.flags.ac = s.flags.ac

/-- Only CALL writes memory (R41): after a step on any other opcode every byte reads as before. -/
def Obligations.OnlyCallWritesMemory : Prop :=
  ∀ s t : State, step s = .next t → s.readByte s.pc ≠ 0xCD → SameMemory s t

/-- No step writes B, C, D, E, H or L (R13), inte (R23) or AC (R20), in any state. -/
def Obligations.UntouchedState : Prop :=
  ∀ s t : State, step s = .next t →
    SameGeneral s t ∧ t.inte = s.inte ∧ t.flags.ac = s.flags.ac

/-- R20: AC is 0 after reset, and no step writes it or reads it: two states that differ in AC alone step to
states that differ in AC alone. -/
def Obligations.AuxCarryInert : Prop :=
  State.reset.flags.ac = false ∧ (∀ s : State, s.applyReset.flags.ac = false) ∧
  (∀ s t : State, step s = .next t → t.flags.ac = s.flags.ac) ∧
  (∀ (s t : State) (bit : Bool), step s = .next t → step (withAux s bit) = .next (withAux t bit))

/-- R23: inte is 0 after reset, and no step writes it or reads it: two states that differ in inte alone step to
states that differ in inte alone. -/
def Obligations.InterruptEnableInert : Prop :=
  State.reset.inte = false ∧ (∀ s : State, s.applyReset.inte = false) ∧
  (∀ s t : State, step s = .next t → t.inte = s.inte) ∧
  (∀ (s t : State) (bit : Bool), step s = .next t → step (withInte s bit) = .next (withInte t bit))

/-! ## Memory and registers -/

/-- R45: a read returns the last byte written; a write changes that byte and nothing else; writing the same byte
twice equals writing it once. Every address of the 65,536 behaves so. -/
def Obligations.StoreThenLoad : Prop :=
  ∀ (s : State) (addr : Word) (v : Byte),
    (s.writeByte addr v).readByte addr = v ∧
    (∀ other : Word, other ≠ addr → (s.writeByte addr v).readByte other = s.readByte other) ∧
    (s.writeByte addr v).writeByte addr v = s.writeByte addr v ∧
    SameRegisters s (s.writeByte addr v) ∧ SameControl s (s.writeByte addr v) ∧
    SameLatches s (s.writeByte addr v) ∧ (s.writeByte addr v).flags = s.flags ∧
    (s.writeByte addr v).pc = s.pc ∧ (s.writeByte addr v).sp = s.sp

/-- The two-byte accesses are little-endian (R9, R42): `v[7:0]` at the address, `v[15:8]` at the next, and a
read gives the value back; every other byte stays. -/
def Obligations.WordAccessLittleEndian : Prop :=
  ∀ (s : State) (addr v : Word),
    ((s.writeWord addr v).readByte addr).toNat = v.toNat % 256 ∧
    ((s.writeWord addr v).readByte (addr + 1)).toNat = v.toNat / 256 ∧
    (s.writeWord addr v).readWord addr = v ∧
    (∀ other : Word, other ≠ addr → other ≠ addr + 1 →
      (s.writeWord addr v).readByte other = s.readByte other)

/-- R47: addresses wrap modulo 65,536 everywhere: operand bytes at the end of memory, pushes with sp at 1 and 0,
and a pop with sp at 0xFFFF. -/
def Obligations.AddressesWrap : Prop :=
  ∀ (s : State) (v : Word),
    ({ s with pc := 0xFFFF } : State).operandByte 1 = s.readByte 0 ∧
    ({ s with pc := 0xFFFF } : State).operandByte 2 = s.readByte 1 ∧
    ({ s with pc := 0xFFFE } : State).operandByte 2 = s.readByte 0 ∧
    (({ s with sp := 1 } : State).push16 v).readByte 0 = hiByte v ∧
    (({ s with sp := 1 } : State).push16 v).readByte 0xFFFF = loByte v ∧
    (({ s with sp := 1 } : State).push16 v).sp = 0xFFFF ∧
    (({ s with sp := 0 } : State).push16 v).readByte 0xFFFF = hiByte v ∧
    (({ s with sp := 0 } : State).push16 v).readByte 0xFFFE = loByte v ∧
    (({ s with sp := 0 } : State).push16 v).sp = 0xFFFE ∧
    ({ s with sp := 0xFFFF } : State).pop16.1 = pairWord (s.readByte 0) (s.readByte 0xFFFF) ∧
    ({ s with sp := 0xFFFF } : State).pop16.2.sp = 1

/-- The register pairs are views (R12): `256*high + low`; writing a half changes its pair accordingly and no
other pair; and writing the accumulator, which is half of none, changes no pair. -/
def Obligations.RegisterPairsAreViews : Prop :=
  ∀ (s : State) (v : Byte),
    (s.bc.toNat = 256 * s.b.toNat + s.c.toNat ∧ s.de.toNat = 256 * s.d.toNat + s.e.toNat ∧
      s.hl.toNat = 256 * s.h.toNat + s.l.toNat) ∧
    ((s.setReg .b v).bc.toNat = 256 * v.toNat + s.c.toNat ∧
      (s.setReg .b v).de = s.de ∧ (s.setReg .b v).hl = s.hl) ∧
    ((s.setReg .c v).bc.toNat = 256 * s.b.toNat + v.toNat ∧
      (s.setReg .c v).de = s.de ∧ (s.setReg .c v).hl = s.hl) ∧
    ((s.setReg .d v).de.toNat = 256 * v.toNat + s.e.toNat ∧
      (s.setReg .d v).bc = s.bc ∧ (s.setReg .d v).hl = s.hl) ∧
    ((s.setReg .e v).de.toNat = 256 * s.d.toNat + v.toNat ∧
      (s.setReg .e v).bc = s.bc ∧ (s.setReg .e v).hl = s.hl) ∧
    ((s.setReg .h v).hl.toNat = 256 * v.toNat + s.l.toNat ∧
      (s.setReg .h v).bc = s.bc ∧ (s.setReg .h v).de = s.de) ∧
    ((s.setReg .l v).hl.toNat = 256 * s.h.toNat + v.toNat ∧
      (s.setReg .l v).bc = s.bc ∧ (s.setReg .l v).de = s.de) ∧
    ((s.setReg .a v).bc = s.bc ∧ (s.setReg .a v).de = s.de ∧ (s.setReg .a v).hl = s.hl)

/-! ## Reset and launch -/

/-- R190: reset gives every component but memory its reset value, whatever the state was, makes no memory
access, writes no memory, and the first step after it fetches the opcode at address 0. -/
def Obligations.ResetAction : Prop :=
  ∀ (s : State) (phase : Phase),
    clockPhase true { state := s, phase := phase } = { state := s.applyReset, phase := .reset } ∧
    portAccess { state := s.applyReset, phase := .reset } = none ∧
    tick { state := s.applyReset, phase := .reset } = { state := s.applyReset, phase := .fetch } ∧
    s.applyReset = { State.reset with mem := s.mem } ∧ SameMemory s s.applyReset ∧
    (∀ r : Reg, s.applyReset.reg r = 0) ∧ s.applyReset.pc = 0 ∧ s.applyReset.sp = 0 ∧
    s.applyReset.flags = { z := false, s := false, p := false, cy := false, ac := false } ∧
    s.applyReset.inte = false ∧ s.applyReset.runState = .running ∧
    s.applyReset.ir = 0 ∧ s.applyReset.zLo = 0 ∧ s.applyReset.wHi = 0 ∧
    ∃ t, step s.applyReset = .next t ∧ t.ir = s.readByte 0

/-- R191: the host's load. An image of at most 65,536 bytes lies at address 0 upward in the launch state, the
bytes above it are MEM_INIT, and every component else has its reset value; a longer image starts no run. -/
def Obligations.LaunchPlacesImage : Prop :=
  (∀ image : List Byte, image.length ≤ 65536 →
    ∃ s, State.launch image = some s ∧
      (∀ k (h : k < image.length), s.readByte (BitVec.ofNat 16 k) = image[k]) ∧
      (∀ addr : Word, image.length ≤ addr.toNat → s.readByte addr = Config.memInit addr) ∧
      s = { State.reset with mem := s.mem }) ∧
  (∀ image : List Byte, 65536 < image.length → State.launch image = none)

/-! ## Invariants -/

/-- Every step keeps the invariant: the consistency of the result flags (R131), the fault record of a Faulted
core (R25), HLT's opcode in IR of a Halted one (R86; that IR is a field of State is the model's choice, log
entry 3), and memory's canonical form, which is the model's own choice and no rule of the spec (log entry 2). -/
def Obligations.StepKeepsInvariant : Prop :=
  ∀ s t : State, Inv s → step s = .next t → Inv t

/-- The reset state meets the invariant, and so does the state after the reset action on any state whose memory
has its canonical form. The canonical form, in the premise and in the invariant, is the model's own choice and
no rule of the spec (log entry 2). -/
def Obligations.ResetMeetsInvariant : Prop :=
  Inv State.reset ∧ ∀ s : State, Memory.wf s.mem = true → Inv s.applyReset

/-! ## The FSM -/

/-- The phases of one instruction do what the step does (R85, R87): from S_FETCH of a Running machine, the
circuit comes after the instruction's number of phases to the state `step` answers, and to S_FETCH, or to the
absorbing phase where that state is stopped. Every latch agrees too. -/
def Obligations.FsmRefinesStep : Prop :=
  ∀ s : State, s.runState = .running →
    ∃ t, step s = .next t ∧
      runPhases (phaseCount (s.readByte s.pc)) { state := s, phase := .fetch } =
        { state := t, phase := phaseOfRunState t.runState }

/-- A run of any number of steps is a run of the circuit (R85, R87). -/
def Obligations.FsmRefinesRun : Prop :=
  ∀ (n : Nat) (s : State), ∃ k t,
    Host.Core.run Sys2Proof.core n s = .next t ∧
      runPhases k { state := s, phase := phaseOfRunState s.runState } =
        { state := t, phase := phaseOfRunState t.runState }

/-- R53: the accesses of one instruction, in order of time: its own bytes in ascending order, then data reads,
then writes; CALL writes the high byte first. An unbound opcode accesses its own byte alone. -/
def Obligations.AccessOrder : Prop :=
  ∀ (s : State) (trace : List Access),
    trace = accessTrace (phaseCount (s.readByte s.pc)) { state := s, phase := .fetch } →
    (fetchInstr s = none → trace = [.read s.pc]) ∧
    (∀ i, fetchInstr s = some i → instrLength i = 1 → i ≠ .addM → i ≠ .ret → trace = [.read s.pc]) ∧
    (fetchInstr s = some .addM → trace = [.read s.pc, .read s.hl]) ∧
    (fetchInstr s = some .ret → trace = [.read s.pc, .read s.sp, .read (s.sp + 1)]) ∧
    (∀ i, fetchInstr s = some i → instrLength i = 2 → trace = [.read s.pc, .read (s.pc + 1)]) ∧
    (∀ i, fetchInstr s = some i → instrLength i = 3 → (∀ a16, i ≠ .call a16) →
      trace = [.read s.pc, .read (s.pc + 1), .read (s.pc + 2)]) ∧
    (∀ a16, fetchInstr s = some (.call a16) →
      trace = [.read s.pc, .read (s.pc + 1), .read (s.pc + 2),
        .write (s.sp - 1) (hiByte (s.pc + 3)), .write (s.sp - 2) (loByte (s.pc + 3))])

/-- The circuit changes memory only through the write strobe of its port (R88, R89): in every phase of every
circuit state, memory afterwards is memory before, with the byte of the phase's write access if it has one. -/
def Obligations.MemoryChangesOnlyThroughPort : Prop :=
  ∀ m : Fsm, (∀ addr data, portAccess m = some (.write addr data) →
      (tick m).state.readByte addr = data ∧
      ∀ other : Word, other ≠ addr → (tick m).state.readByte other = m.state.readByte other) ∧
    ((∀ addr data, portAccess m ≠ some (.write addr data)) → SameMemory m.state (tick m).state)

/-- Reset inside a CALL (R195): whichever phase it falls in, the state takes its reset values, and memory keeps
zero, one or both bytes of the push. -/
def Obligations.ResetAbandonsCall : Prop :=
  ∀ (s : State) (k : Nat), s.readByte s.pc = 0xCD → k ≤ 7 →
    ∃ t, clockPhase true (runPhases k { state := s, phase := .fetch }) = { state := t, phase := .reset } ∧
      t = { State.reset with mem := t.mem } ∧
      (∀ addr : Word, addr ≠ s.sp - 1 → addr ≠ s.sp - 2 → t.readByte addr = s.readByte addr) ∧
      t.readByte (s.sp - 1) = (if k < 5 then s.readByte (s.sp - 1) else hiByte (s.pc + 3)) ∧
      t.readByte (s.sp - 2) = (if k < 5 + 1 then s.readByte (s.sp - 2) else loByte (s.pc + 3))

/-! ## The launch state -/

/-- Every launch state (R191) meets the invariant. Of the invariant's parts, memory's canonical form is the
model's own choice and no rule of the spec (log entry 2). -/
def Obligations.LaunchMeetsInvariant : Prop :=
  ∀ (image : List Byte) (s : State), State.launch image = some s → Inv s
end

