-- ==== Sys2Proof/Laws/Decode.lean ====
section
/-! SUPPORT. The bytes of a word and the word of two bytes are inverse to each other. -/

namespace Sys2Proof

/-- The bits of `hi:lo`: the low eight are lo's, the others hi's (R6). -/
theorem getLsbD_pairWord (hi lo : Byte) (k : Nat) :
    (pairWord hi lo).getLsbD k = if k < 8 then lo.getLsbD k else hi.getLsbD (k - 8) :=
  BitVec.getLsbD_append

@[simp] theorem hiByte_pairWord (hi lo : Byte) : hiByte (pairWord hi lo) = hi := by
  apply BitVec.eq_of_getLsbD_eq
  intro k hk
  simp [hiByte, getLsbD_pairWord, hk]

@[simp] theorem loByte_pairWord (hi lo : Byte) : loByte (pairWord hi lo) = lo := by
  apply BitVec.eq_of_getLsbD_eq
  intro k hk
  simp [loByte, getLsbD_pairWord, hk]

@[simp] theorem pairWord_hiByte_loByte (w : Word) : pairWord (hiByte w) (loByte w) = w := by
  apply BitVec.eq_of_getLsbD_eq
  intro k hk
  rw [getLsbD_pairWord]
  split
  · rename_i h
    simp [loByte, h]
  · have h8 : k - 8 < 8 := by omega
    have hs : 8 + (k - 8) = k := by omega
    simp [hiByte, h8, hs]

/-- What a binding says of the opcode it belongs to: its instructions are encoded with that opcode and with the
operand bytes of its format. -/
def Binding.Describes (op : Byte) : Binding → Prop
  | .unbound => True
  | .f1 i => opcodeOf i = op ∧ operandBytes i = []
  | .f2 mk => ∀ d8, opcodeOf (mk d8) = op ∧ operandBytes (mk d8) = [d8]
  | .f3 mk => ∀ a16, opcodeOf (mk a16) = op ∧ operandBytes (mk a16) = addressBytes a16

/-- Everything dispatch can answer: the binding of the opcode map describes its opcode. -/
theorem dispatch_describes (op : Byte) : (dispatch op).Describes op := by
  have key : ∀ n : Nat, op.toNat = n → BitVec.ofNat 8 n = op := by
    rintro n rfl
    simp
  unfold dispatch
  split <;> rename_i hn
  all_goals first
    | trivial
    | exact ⟨key _ hn, rfl⟩
    | exact fun _ => ⟨key _ hn, rfl⟩

/-- Dispatch on the opcode of an instruction is not unbound. -/
theorem isBound_opcodeOf (i : Instr) : isBound (opcodeOf i) = true := by
  cases i <;> rfl

/-- Two words with the same bytes are the same word. -/
theorem pairWord_inj {hi lo hi' lo' : Byte} :
    pairWord hi lo = pairWord hi' lo' ↔ hi = hi' ∧ lo = lo' := by
  constructor
  · intro h
    exact ⟨by simpa using congrArg hiByte h, by simpa using congrArg loByte h⟩
  · rintro ⟨rfl, rfl⟩
    rfl

end Sys2Proof
end

