-- ==== Sys2Proof/Laws/State.lean ====
section
/-! SUPPORT. One lemma per field per update of the state, true by unfolding, so that no later proof unfolds a
record update; and what each update does to a read of memory. -/

namespace Sys2Proof.Machine

@[simp] theorem advance_a (s : State) (n : Word) : (s.advance n).a = s.a := rfl
@[simp] theorem advance_b (s : State) (n : Word) : (s.advance n).b = s.b := rfl
@[simp] theorem advance_c (s : State) (n : Word) : (s.advance n).c = s.c := rfl
@[simp] theorem advance_d (s : State) (n : Word) : (s.advance n).d = s.d := rfl
@[simp] theorem advance_e (s : State) (n : Word) : (s.advance n).e = s.e := rfl
@[simp] theorem advance_h (s : State) (n : Word) : (s.advance n).h = s.h := rfl
@[simp] theorem advance_l (s : State) (n : Word) : (s.advance n).l = s.l := rfl
@[simp] theorem advance_pc (s : State) (n : Word) : (s.advance n).pc = s.pc + n := rfl
@[simp] theorem advance_sp (s : State) (n : Word) : (s.advance n).sp = s.sp := rfl
@[simp] theorem advance_flags (s : State) (n : Word) : (s.advance n).flags = s.flags := rfl
@[simp] theorem advance_inte (s : State) (n : Word) : (s.advance n).inte = s.inte := rfl
@[simp] theorem advance_runState (s : State) (n : Word) : (s.advance n).runState = s.runState := rfl
@[simp] theorem advance_ir (s : State) (n : Word) : (s.advance n).ir = s.ir := rfl
@[simp] theorem advance_zLo (s : State) (n : Word) : (s.advance n).zLo = s.zLo := rfl
@[simp] theorem advance_wHi (s : State) (n : Word) : (s.advance n).wHi = s.wHi := rfl
@[simp] theorem advance_mem (s : State) (n : Word) : (s.advance n).mem = s.mem := rfl

@[simp] theorem jumpTo_a (s : State) (w : Word) : (s.jumpTo w).a = s.a := rfl
@[simp] theorem jumpTo_b (s : State) (w : Word) : (s.jumpTo w).b = s.b := rfl
@[simp] theorem jumpTo_c (s : State) (w : Word) : (s.jumpTo w).c = s.c := rfl
@[simp] theorem jumpTo_d (s : State) (w : Word) : (s.jumpTo w).d = s.d := rfl
@[simp] theorem jumpTo_e (s : State) (w : Word) : (s.jumpTo w).e = s.e := rfl
@[simp] theorem jumpTo_h (s : State) (w : Word) : (s.jumpTo w).h = s.h := rfl
@[simp] theorem jumpTo_l (s : State) (w : Word) : (s.jumpTo w).l = s.l := rfl
@[simp] theorem jumpTo_pc (s : State) (w : Word) : (s.jumpTo w).pc = w := rfl
@[simp] theorem jumpTo_sp (s : State) (w : Word) : (s.jumpTo w).sp = s.sp := rfl
@[simp] theorem jumpTo_flags (s : State) (w : Word) : (s.jumpTo w).flags = s.flags := rfl
@[simp] theorem jumpTo_inte (s : State) (w : Word) : (s.jumpTo w).inte = s.inte := rfl
@[simp] theorem jumpTo_runState (s : State) (w : Word) : (s.jumpTo w).runState = s.runState := rfl
@[simp] theorem jumpTo_ir (s : State) (w : Word) : (s.jumpTo w).ir = s.ir := rfl
@[simp] theorem jumpTo_zLo (s : State) (w : Word) : (s.jumpTo w).zLo = s.zLo := rfl
@[simp] theorem jumpTo_wHi (s : State) (w : Word) : (s.jumpTo w).wHi = s.wHi := rfl
@[simp] theorem jumpTo_mem (s : State) (w : Word) : (s.jumpTo w).mem = s.mem := rfl

@[simp] theorem latchByte_a (s : State) (v : Byte) : (s.latchByte v).a = s.a := rfl
@[simp] theorem latchByte_b (s : State) (v : Byte) : (s.latchByte v).b = s.b := rfl
@[simp] theorem latchByte_c (s : State) (v : Byte) : (s.latchByte v).c = s.c := rfl
@[simp] theorem latchByte_d (s : State) (v : Byte) : (s.latchByte v).d = s.d := rfl
@[simp] theorem latchByte_e (s : State) (v : Byte) : (s.latchByte v).e = s.e := rfl
@[simp] theorem latchByte_h (s : State) (v : Byte) : (s.latchByte v).h = s.h := rfl
@[simp] theorem latchByte_l (s : State) (v : Byte) : (s.latchByte v).l = s.l := rfl
@[simp] theorem latchByte_pc (s : State) (v : Byte) : (s.latchByte v).pc = s.pc := rfl
@[simp] theorem latchByte_sp (s : State) (v : Byte) : (s.latchByte v).sp = s.sp := rfl
@[simp] theorem latchByte_flags (s : State) (v : Byte) : (s.latchByte v).flags = s.flags := rfl
@[simp] theorem latchByte_inte (s : State) (v : Byte) : (s.latchByte v).inte = s.inte := rfl
@[simp] theorem latchByte_runState (s : State) (v : Byte) : (s.latchByte v).runState = s.runState := rfl
@[simp] theorem latchByte_ir (s : State) (v : Byte) : (s.latchByte v).ir = s.ir := rfl
@[simp] theorem latchByte_zLo (s : State) (v : Byte) : (s.latchByte v).zLo = v := rfl
@[simp] theorem latchByte_wHi (s : State) (v : Byte) : (s.latchByte v).wHi = s.wHi := rfl
@[simp] theorem latchByte_mem (s : State) (v : Byte) : (s.latchByte v).mem = s.mem := rfl

@[simp] theorem latchWord_a (s : State) (w : Word) : (s.latchWord w).a = s.a := rfl
@[simp] theorem latchWord_b (s : State) (w : Word) : (s.latchWord w).b = s.b := rfl
@[simp] theorem latchWord_c (s : State) (w : Word) : (s.latchWord w).c = s.c := rfl
@[simp] theorem latchWord_d (s : State) (w : Word) : (s.latchWord w).d = s.d := rfl
@[simp] theorem latchWord_e (s : State) (w : Word) : (s.latchWord w).e = s.e := rfl
@[simp] theorem latchWord_h (s : State) (w : Word) : (s.latchWord w).h = s.h := rfl
@[simp] theorem latchWord_l (s : State) (w : Word) : (s.latchWord w).l = s.l := rfl
@[simp] theorem latchWord_pc (s : State) (w : Word) : (s.latchWord w).pc = s.pc := rfl
@[simp] theorem latchWord_sp (s : State) (w : Word) : (s.latchWord w).sp = s.sp := rfl
@[simp] theorem latchWord_flags (s : State) (w : Word) : (s.latchWord w).flags = s.flags := rfl
@[simp] theorem latchWord_inte (s : State) (w : Word) : (s.latchWord w).inte = s.inte := rfl
@[simp] theorem latchWord_runState (s : State) (w : Word) : (s.latchWord w).runState = s.runState := rfl
@[simp] theorem latchWord_ir (s : State) (w : Word) : (s.latchWord w).ir = s.ir := rfl
@[simp] theorem latchWord_zLo (s : State) (w : Word) : (s.latchWord w).zLo = loByte w := rfl
@[simp] theorem latchWord_wHi (s : State) (w : Word) : (s.latchWord w).wHi = hiByte w := rfl
@[simp] theorem latchWord_mem (s : State) (w : Word) : (s.latchWord w).mem = s.mem := rfl

@[simp] theorem writeByte_a (s : State) (x : Word) (v : Byte) : (s.writeByte x v).a = s.a := rfl
@[simp] theorem writeByte_b (s : State) (x : Word) (v : Byte) : (s.writeByte x v).b = s.b := rfl
@[simp] theorem writeByte_c (s : State) (x : Word) (v : Byte) : (s.writeByte x v).c = s.c := rfl
@[simp] theorem writeByte_d (s : State) (x : Word) (v : Byte) : (s.writeByte x v).d = s.d := rfl
@[simp] theorem writeByte_e (s : State) (x : Word) (v : Byte) : (s.writeByte x v).e = s.e := rfl
@[simp] theorem writeByte_h (s : State) (x : Word) (v : Byte) : (s.writeByte x v).h = s.h := rfl
@[simp] theorem writeByte_l (s : State) (x : Word) (v : Byte) : (s.writeByte x v).l = s.l := rfl
@[simp] theorem writeByte_pc (s : State) (x : Word) (v : Byte) : (s.writeByte x v).pc = s.pc := rfl
@[simp] theorem writeByte_sp (s : State) (x : Word) (v : Byte) : (s.writeByte x v).sp = s.sp := rfl
@[simp] theorem writeByte_flags (s : State) (x : Word) (v : Byte) : (s.writeByte x v).flags = s.flags := rfl
@[simp] theorem writeByte_inte (s : State) (x : Word) (v : Byte) : (s.writeByte x v).inte = s.inte := rfl
@[simp] theorem writeByte_runState (s : State) (x : Word) (v : Byte) : (s.writeByte x v).runState = s.runState := rfl
@[simp] theorem writeByte_ir (s : State) (x : Word) (v : Byte) : (s.writeByte x v).ir = s.ir := rfl
@[simp] theorem writeByte_zLo (s : State) (x : Word) (v : Byte) : (s.writeByte x v).zLo = s.zLo := rfl
@[simp] theorem writeByte_wHi (s : State) (x : Word) (v : Byte) : (s.writeByte x v).wHi = s.wHi := rfl
@[simp] theorem writeByte_mem (s : State) (x : Word) (v : Byte) : (s.writeByte x v).mem = Memory.store s.mem x.toNat v := rfl

@[simp] theorem push16_a (s : State) (w : Word) : (s.push16 w).a = s.a := rfl
@[simp] theorem push16_b (s : State) (w : Word) : (s.push16 w).b = s.b := rfl
@[simp] theorem push16_c (s : State) (w : Word) : (s.push16 w).c = s.c := rfl
@[simp] theorem push16_d (s : State) (w : Word) : (s.push16 w).d = s.d := rfl
@[simp] theorem push16_e (s : State) (w : Word) : (s.push16 w).e = s.e := rfl
@[simp] theorem push16_h (s : State) (w : Word) : (s.push16 w).h = s.h := rfl
@[simp] theorem push16_l (s : State) (w : Word) : (s.push16 w).l = s.l := rfl
@[simp] theorem push16_pc (s : State) (w : Word) : (s.push16 w).pc = s.pc := rfl
@[simp] theorem push16_sp (s : State) (w : Word) : (s.push16 w).sp = s.sp - 2 := rfl
@[simp] theorem push16_flags (s : State) (w : Word) : (s.push16 w).flags = s.flags := rfl
@[simp] theorem push16_inte (s : State) (w : Word) : (s.push16 w).inte = s.inte := rfl
@[simp] theorem push16_runState (s : State) (w : Word) : (s.push16 w).runState = s.runState := rfl
@[simp] theorem push16_ir (s : State) (w : Word) : (s.push16 w).ir = s.ir := rfl
@[simp] theorem push16_zLo (s : State) (w : Word) : (s.push16 w).zLo = s.zLo := rfl
@[simp] theorem push16_wHi (s : State) (w : Word) : (s.push16 w).wHi = s.wHi := rfl
@[simp] theorem push16_mem (s : State) (w : Word) : (s.push16 w).mem = Memory.store (Memory.store s.mem (s.sp - 1).toNat (hiByte w)) (s.sp - 2).toNat (loByte w) := rfl

@[simp] theorem pop16_a (s : State) : s.pop16.2.a = s.a := rfl
@[simp] theorem pop16_b (s : State) : s.pop16.2.b = s.b := rfl
@[simp] theorem pop16_c (s : State) : s.pop16.2.c = s.c := rfl
@[simp] theorem pop16_d (s : State) : s.pop16.2.d = s.d := rfl
@[simp] theorem pop16_e (s : State) : s.pop16.2.e = s.e := rfl
@[simp] theorem pop16_h (s : State) : s.pop16.2.h = s.h := rfl
@[simp] theorem pop16_l (s : State) : s.pop16.2.l = s.l := rfl
@[simp] theorem pop16_pc (s : State) : s.pop16.2.pc = s.pc := rfl
@[simp] theorem pop16_sp (s : State) : s.pop16.2.sp = s.sp + 2 := rfl
@[simp] theorem pop16_flags (s : State) : s.pop16.2.flags = s.flags := rfl
@[simp] theorem pop16_inte (s : State) : s.pop16.2.inte = s.inte := rfl
@[simp] theorem pop16_runState (s : State) : s.pop16.2.runState = s.runState := rfl
@[simp] theorem pop16_ir (s : State) : s.pop16.2.ir = s.ir := rfl
@[simp] theorem pop16_zLo (s : State) : s.pop16.2.zLo = s.zLo := rfl
@[simp] theorem pop16_wHi (s : State) : s.pop16.2.wHi = s.wHi := rfl
@[simp] theorem pop16_mem (s : State) : s.pop16.2.mem = s.mem := rfl

@[simp] theorem writeResult_a (s : State) (k : FlagClass) (r : Byte) (co : Bool) : (s.writeResult k r co).a = r := rfl
@[simp] theorem writeResult_b (s : State) (k : FlagClass) (r : Byte) (co : Bool) : (s.writeResult k r co).b = s.b := rfl
@[simp] theorem writeResult_c (s : State) (k : FlagClass) (r : Byte) (co : Bool) : (s.writeResult k r co).c = s.c := rfl
@[simp] theorem writeResult_d (s : State) (k : FlagClass) (r : Byte) (co : Bool) : (s.writeResult k r co).d = s.d := rfl
@[simp] theorem writeResult_e (s : State) (k : FlagClass) (r : Byte) (co : Bool) : (s.writeResult k r co).e = s.e := rfl
@[simp] theorem writeResult_h (s : State) (k : FlagClass) (r : Byte) (co : Bool) : (s.writeResult k r co).h = s.h := rfl
@[simp] theorem writeResult_l (s : State) (k : FlagClass) (r : Byte) (co : Bool) : (s.writeResult k r co).l = s.l := rfl
@[simp] theorem writeResult_pc (s : State) (k : FlagClass) (r : Byte) (co : Bool) : (s.writeResult k r co).pc = s.pc := rfl
@[simp] theorem writeResult_sp (s : State) (k : FlagClass) (r : Byte) (co : Bool) : (s.writeResult k r co).sp = s.sp := rfl
@[simp] theorem writeResult_flags (s : State) (k : FlagClass) (r : Byte) (co : Bool) : (s.writeResult k r co).flags = flagsUnit k r co (s.a.getLsbD 0) s.flags := rfl
@[simp] theorem writeResult_inte (s : State) (k : FlagClass) (r : Byte) (co : Bool) : (s.writeResult k r co).inte = s.inte := rfl
@[simp] theorem writeResult_runState (s : State) (k : FlagClass) (r : Byte) (co : Bool) : (s.writeResult k r co).runState = s.runState := rfl
@[simp] theorem writeResult_ir (s : State) (k : FlagClass) (r : Byte) (co : Bool) : (s.writeResult k r co).ir = s.ir := rfl
@[simp] theorem writeResult_zLo (s : State) (k : FlagClass) (r : Byte) (co : Bool) : (s.writeResult k r co).zLo = s.zLo := rfl
@[simp] theorem writeResult_wHi (s : State) (k : FlagClass) (r : Byte) (co : Bool) : (s.writeResult k r co).wHi = s.wHi := rfl
@[simp] theorem writeResult_mem (s : State) (k : FlagClass) (r : Byte) (co : Bool) : (s.writeResult k r co).mem = s.mem := rfl

@[simp] theorem raiseUnimplemented_a (s : State) (w : Word) (v : Byte) : (s.raiseUnimplemented w v).a = s.a := rfl
@[simp] theorem raiseUnimplemented_b (s : State) (w : Word) (v : Byte) : (s.raiseUnimplemented w v).b = s.b := rfl
@[simp] theorem raiseUnimplemented_c (s : State) (w : Word) (v : Byte) : (s.raiseUnimplemented w v).c = s.c := rfl
@[simp] theorem raiseUnimplemented_d (s : State) (w : Word) (v : Byte) : (s.raiseUnimplemented w v).d = s.d := rfl
@[simp] theorem raiseUnimplemented_e (s : State) (w : Word) (v : Byte) : (s.raiseUnimplemented w v).e = s.e := rfl
@[simp] theorem raiseUnimplemented_h (s : State) (w : Word) (v : Byte) : (s.raiseUnimplemented w v).h = s.h := rfl
@[simp] theorem raiseUnimplemented_l (s : State) (w : Word) (v : Byte) : (s.raiseUnimplemented w v).l = s.l := rfl
@[simp] theorem raiseUnimplemented_pc (s : State) (w : Word) (v : Byte) : (s.raiseUnimplemented w v).pc = w := rfl
@[simp] theorem raiseUnimplemented_sp (s : State) (w : Word) (v : Byte) : (s.raiseUnimplemented w v).sp = s.sp := rfl
@[simp] theorem raiseUnimplemented_flags (s : State) (w : Word) (v : Byte) : (s.raiseUnimplemented w v).flags = s.flags := rfl
@[simp] theorem raiseUnimplemented_inte (s : State) (w : Word) (v : Byte) : (s.raiseUnimplemented w v).inte = s.inte := rfl
@[simp] theorem raiseUnimplemented_runState (s : State) (w : Word) (v : Byte) : (s.raiseUnimplemented w v).runState = .faulted := rfl
@[simp] theorem raiseUnimplemented_ir (s : State) (w : Word) (v : Byte) : (s.raiseUnimplemented w v).ir = v := rfl
@[simp] theorem raiseUnimplemented_zLo (s : State) (w : Word) (v : Byte) : (s.raiseUnimplemented w v).zLo = s.zLo := rfl
@[simp] theorem raiseUnimplemented_wHi (s : State) (w : Word) (v : Byte) : (s.raiseUnimplemented w v).wHi = s.wHi := rfl
@[simp] theorem raiseUnimplemented_mem (s : State) (w : Word) (v : Byte) : (s.raiseUnimplemented w v).mem = s.mem := rfl

@[simp] theorem enterHalted_a (s : State) : s.enterHalted.a = s.a := rfl
@[simp] theorem enterHalted_b (s : State) : s.enterHalted.b = s.b := rfl
@[simp] theorem enterHalted_c (s : State) : s.enterHalted.c = s.c := rfl
@[simp] theorem enterHalted_d (s : State) : s.enterHalted.d = s.d := rfl
@[simp] theorem enterHalted_e (s : State) : s.enterHalted.e = s.e := rfl
@[simp] theorem enterHalted_h (s : State) : s.enterHalted.h = s.h := rfl
@[simp] theorem enterHalted_l (s : State) : s.enterHalted.l = s.l := rfl
@[simp] theorem enterHalted_pc (s : State) : s.enterHalted.pc = s.pc := rfl
@[simp] theorem enterHalted_sp (s : State) : s.enterHalted.sp = s.sp := rfl
@[simp] theorem enterHalted_flags (s : State) : s.enterHalted.flags = s.flags := rfl
@[simp] theorem enterHalted_inte (s : State) : s.enterHalted.inte = s.inte := rfl
@[simp] theorem enterHalted_runState (s : State) : s.enterHalted.runState = .halted := rfl
@[simp] theorem enterHalted_ir (s : State) : s.enterHalted.ir = s.ir := rfl
@[simp] theorem enterHalted_zLo (s : State) : s.enterHalted.zLo = s.zLo := rfl
@[simp] theorem enterHalted_wHi (s : State) : s.enterHalted.wHi = s.wHi := rfl
@[simp] theorem enterHalted_mem (s : State) : s.enterHalted.mem = s.mem := rfl

@[simp] theorem latchOpcode_a (s : State) : s.latchOpcode.a = s.a := rfl
@[simp] theorem latchOpcode_b (s : State) : s.latchOpcode.b = s.b := rfl
@[simp] theorem latchOpcode_c (s : State) : s.latchOpcode.c = s.c := rfl
@[simp] theorem latchOpcode_d (s : State) : s.latchOpcode.d = s.d := rfl
@[simp] theorem latchOpcode_e (s : State) : s.latchOpcode.e = s.e := rfl
@[simp] theorem latchOpcode_h (s : State) : s.latchOpcode.h = s.h := rfl
@[simp] theorem latchOpcode_l (s : State) : s.latchOpcode.l = s.l := rfl
@[simp] theorem latchOpcode_pc (s : State) : s.latchOpcode.pc = s.pc := rfl
@[simp] theorem latchOpcode_sp (s : State) : s.latchOpcode.sp = s.sp := rfl
@[simp] theorem latchOpcode_flags (s : State) : s.latchOpcode.flags = s.flags := rfl
@[simp] theorem latchOpcode_inte (s : State) : s.latchOpcode.inte = s.inte := rfl
@[simp] theorem latchOpcode_runState (s : State) : s.latchOpcode.runState = s.runState := rfl
@[simp] theorem latchOpcode_ir (s : State) : s.latchOpcode.ir = s.opcode := rfl
@[simp] theorem latchOpcode_zLo (s : State) : s.latchOpcode.zLo = s.zLo := rfl
@[simp] theorem latchOpcode_wHi (s : State) : s.latchOpcode.wHi = s.wHi := rfl
@[simp] theorem latchOpcode_mem (s : State) : s.latchOpcode.mem = s.mem := rfl

@[simp] theorem makeRunning_a (s : State) : (makeRunning s).a = s.a := rfl
@[simp] theorem makeRunning_b (s : State) : (makeRunning s).b = s.b := rfl
@[simp] theorem makeRunning_c (s : State) : (makeRunning s).c = s.c := rfl
@[simp] theorem makeRunning_d (s : State) : (makeRunning s).d = s.d := rfl
@[simp] theorem makeRunning_e (s : State) : (makeRunning s).e = s.e := rfl
@[simp] theorem makeRunning_h (s : State) : (makeRunning s).h = s.h := rfl
@[simp] theorem makeRunning_l (s : State) : (makeRunning s).l = s.l := rfl
@[simp] theorem makeRunning_pc (s : State) : (makeRunning s).pc = s.pc := rfl
@[simp] theorem makeRunning_sp (s : State) : (makeRunning s).sp = s.sp := rfl
@[simp] theorem makeRunning_flags (s : State) : (makeRunning s).flags = s.flags := rfl
@[simp] theorem makeRunning_inte (s : State) : (makeRunning s).inte = s.inte := rfl
@[simp] theorem makeRunning_runState (s : State) : (makeRunning s).runState = .running := rfl
@[simp] theorem makeRunning_ir (s : State) : (makeRunning s).ir = s.ir := rfl
@[simp] theorem makeRunning_zLo (s : State) : (makeRunning s).zLo = s.zLo := rfl
@[simp] theorem makeRunning_wHi (s : State) : (makeRunning s).wHi = s.wHi := rfl
@[simp] theorem makeRunning_mem (s : State) : (makeRunning s).mem = s.mem := rfl

/-! Reset: every field a constant, memory kept (R190). -/

@[simp] theorem applyReset_a (s : State) : s.applyReset.a = 0 := rfl
@[simp] theorem applyReset_b (s : State) : s.applyReset.b = 0 := rfl
@[simp] theorem applyReset_c (s : State) : s.applyReset.c = 0 := rfl
@[simp] theorem applyReset_d (s : State) : s.applyReset.d = 0 := rfl
@[simp] theorem applyReset_e (s : State) : s.applyReset.e = 0 := rfl
@[simp] theorem applyReset_h (s : State) : s.applyReset.h = 0 := rfl
@[simp] theorem applyReset_l (s : State) : s.applyReset.l = 0 := rfl
@[simp] theorem applyReset_pc (s : State) : s.applyReset.pc = 0 := rfl
@[simp] theorem applyReset_sp (s : State) : s.applyReset.sp = 0 := rfl
@[simp] theorem applyReset_flags (s : State) : s.applyReset.flags = ⟨false, false, false, false, false⟩ := rfl
@[simp] theorem applyReset_inte (s : State) : s.applyReset.inte = false := rfl
@[simp] theorem applyReset_runState (s : State) : s.applyReset.runState = .running := rfl
@[simp] theorem applyReset_ir (s : State) : s.applyReset.ir = 0 := rfl
@[simp] theorem applyReset_zLo (s : State) : s.applyReset.zLo = 0 := rfl
@[simp] theorem applyReset_wHi (s : State) : s.applyReset.wHi = 0 := rfl
@[simp] theorem applyReset_mem (s : State) : s.applyReset.mem = s.mem := rfl

/-! Reading a byte after an update that leaves memory alone. -/

@[simp] theorem advance_readByte (s : State) (n : Word) (addr : Word) :
    (s.advance n).readByte addr = s.readByte addr := rfl
@[simp] theorem jumpTo_readByte (s : State) (w : Word) (addr : Word) :
    (s.jumpTo w).readByte addr = s.readByte addr := rfl
@[simp] theorem latchByte_readByte (s : State) (v : Byte) (addr : Word) :
    (s.latchByte v).readByte addr = s.readByte addr := rfl
@[simp] theorem latchWord_readByte (s : State) (w : Word) (addr : Word) :
    (s.latchWord w).readByte addr = s.readByte addr := rfl
@[simp] theorem pop16_readByte (s : State) (addr : Word) :
    s.pop16.2.readByte addr = s.readByte addr := rfl
@[simp] theorem writeResult_readByte (s : State) (k : FlagClass) (r : Byte) (co : Bool) (addr : Word) :
    (s.writeResult k r co).readByte addr = s.readByte addr := rfl
@[simp] theorem raiseUnimplemented_readByte (s : State) (w : Word) (v : Byte) (addr : Word) :
    (s.raiseUnimplemented w v).readByte addr = s.readByte addr := rfl
@[simp] theorem enterHalted_readByte (s : State) (addr : Word) :
    s.enterHalted.readByte addr = s.readByte addr := rfl
@[simp] theorem latchOpcode_readByte (s : State) (addr : Word) :
    s.latchOpcode.readByte addr = s.readByte addr := rfl
@[simp] theorem makeRunning_readByte (s : State) (addr : Word) :
    (makeRunning s).readByte addr = s.readByte addr := rfl
@[simp] theorem applyReset_readByte (s : State) (addr : Word) :
    s.applyReset.readByte addr = s.readByte addr := rfl

/-! Registers by number: a write is seen by a read of that register and by no other. -/

@[simp] theorem reg_setReg_same (s : State) (r : Reg) (v : Byte) : (s.setReg r v).reg r = v := by
  cases r <;> rfl

theorem reg_setReg_ne (s : State) {r r' : Reg} (v : Byte) (h : r' ≠ r) :
    (s.setReg r v).reg r' = s.reg r' := by
  cases r <;> cases r' <;> first | rfl | exact absurd rfl h

@[simp] theorem setReg_readByte (s : State) (r : Reg) (v : Byte) (addr : Word) :
    (s.setReg r v).readByte addr = s.readByte addr := by
  cases r <;> rfl

end Sys2Proof.Machine
end

