-- ==== Sys2Proof/Laws/Memory.lean ====
section
/-! SUPPORT. The laws of memory: a store is seen at its own address and nowhere else, and every memory
operation keeps the canonical form. -/

namespace Sys2Proof.Machine

@[simp] theorem lookup_store_same (m : Memory) (addr : Nat) (v : Byte) :
    Memory.lookup (Memory.store m addr v) addr = some v := by
  induction m with
  | nil => simp [Memory.store, Memory.lookup]
  | cons cell rest ih =>
    obtain ⟨k, w⟩ := cell
    simp only [Memory.store]
    split
    · simp [Memory.lookup]
    · split
      · simp [Memory.lookup]
      · rename_i hne
        simp [Memory.lookup, hne, ih]

theorem lookup_store_ne (m : Memory) {addr other : Nat} (v : Byte) (h : other ≠ addr) :
    Memory.lookup (Memory.store m addr v) other = Memory.lookup m other := by
  induction m with
  | nil => simp [Memory.store, Memory.lookup, h]
  | cons cell rest ih =>
    obtain ⟨k, w⟩ := cell
    simp only [Memory.store]
    split
    · simp [Memory.lookup, h]
    · split
      · rename_i heq
        subst heq
        simp [Memory.lookup, h]
      · simp [Memory.lookup, ih]

@[simp] theorem wfFrom_nil (low : Nat) : Memory.wfFrom low [] = true := rfl

theorem wfFrom_cons (low k : Nat) (v : Byte) (rest : Memory) :
    Memory.wfFrom low ((k, v) :: rest) = true ↔
      low ≤ k ∧ k < Config.memSize ∧ Memory.wfFrom (k + 1) rest = true := by
  simp [Memory.wfFrom, and_assoc]

/-- A store above the bound keeps the canonical form from that bound on. -/
theorem wfFrom_store (m : Memory) (low addr : Nat) (v : Byte) (hm : Memory.wfFrom low m = true)
    (hlow : low ≤ addr) (hsize : addr < Config.memSize) :
    Memory.wfFrom low (Memory.store m addr v) = true := by
  induction m generalizing low with
  | nil => exact (wfFrom_cons ..).2 ⟨hlow, hsize, rfl⟩
  | cons cell rest ih =>
    obtain ⟨k, w⟩ := cell
    obtain ⟨hk, hks, hrest⟩ := (wfFrom_cons ..).1 hm
    simp only [Memory.store]
    split
    · rename_i hlt
      exact (wfFrom_cons ..).2 ⟨hlow, hsize, (wfFrom_cons ..).2 ⟨hlt, hks, hrest⟩⟩
    · split
      · rename_i heq
        subst heq
        exact (wfFrom_cons ..).2 ⟨hlow, hsize, hrest⟩
      · exact (wfFrom_cons ..).2 ⟨hk, hks, ih (k + 1) hrest (by omega)⟩

/-- Every memory operation keeps the canonical form: the store. -/
theorem wf_store (m : Memory) (addr : Nat) (v : Byte) (hm : Memory.wf m = true)
    (hsize : addr < Config.memSize) : Memory.wf (Memory.store m addr v) = true :=
  wfFrom_store m 0 addr v hm (Nat.zero_le _) hsize

/-- A 16-bit address names a byte of memory (R55). -/
theorem word_lt_memSize (addr : Word) : addr.toNat < Config.memSize := addr.isLt

/-- Every memory operation keeps the canonical form: the byte write of an instruction. -/
theorem wf_writeByte (s : State) (addr : Word) (v : Byte) (hm : Memory.wf s.mem = true) :
    Memory.wf (s.writeByte addr v).mem = true :=
  wf_store s.mem addr.toNat v hm (word_lt_memSize addr)

/-- Every memory operation keeps the canonical form: the two-byte write. -/
theorem wf_writeWord (s : State) (addr v : Word) (hm : Memory.wf s.mem = true) :
    Memory.wf (s.writeWord addr v).mem = true :=
  wf_writeByte _ _ _ (wf_writeByte s addr _ hm)

/-- Every memory operation keeps the canonical form: the push. -/
theorem wf_push16 (s : State) (v : Word) (hm : Memory.wf s.mem = true) :
    Memory.wf (s.push16 v).mem = true :=
  wf_store _ _ _ (wf_store s.mem _ _ hm (word_lt_memSize _)) (word_lt_memSize _)

/-- Every memory operation keeps the canonical form: the load of an image that fits. -/
theorem wf_loadFrom (m : Memory) (addr : Nat) (image : List Byte) (hm : Memory.wf m = true)
    (hsize : addr + image.length ≤ Config.memSize) : Memory.wf (Memory.loadFrom m addr image) = true := by
  induction image generalizing m addr with
  | nil => exact hm
  | cons v rest ih =>
    simp only [List.length_cons] at hsize
    exact ih _ _ (wf_store m addr v hm (by omega)) (by omega)

/-- Every memory operation keeps the canonical form: the placing of an instruction at pc. -/
theorem wf_placeCode (s : State) (bytes : List Byte) (hm : Memory.wf s.mem = true) :
    Memory.wf (placeCode s bytes).mem = true := by
  unfold placeCode
  split
  · exact wf_writeByte _ _ _ (wf_writeByte _ _ _ (wf_writeByte s _ _ hm))
  · exact hm

/-- The memory of the reset state has the canonical form. -/
theorem wf_reset : Memory.wf State.reset.mem = true := rfl

end Sys2Proof.Machine
end

