-- ==== Sys2Proof/Laws/Exec.lean ====
section
/-! SUPPORT. What each instruction answers, in the terms of the shared operations, and what a step can do
(the inversion lemmas later proofs cite instead of unfolding `exec` and `step`). -/

namespace Sys2Proof.Machine

/-- ADD r of any register, in one form. -/
theorem exec_addInstr (r : Reg) (s : State) :
    exec (addInstr r) s = .next ((s.add8 (s.reg r)).advance 1) := by
  cases r <;> rfl

/-- A conditional jump of any condition, in one form. -/
theorem exec_jumpInstr (cond : Cond) (a16 : Word) (s : State) :
    exec (jumpInstr cond a16) s = conditionalJump cond a16 s := by
  cases cond <;> rfl

theorem exec_rrc (s : State) : exec .rrc s = .next (s.rotateRight.advance 1) := rfl

theorem exec_rar (s : State) : exec .rar s = .next (s.rotateRightCarry.advance 1) := rfl

theorem exec_cma (s : State) : exec .cma s = .next (s.complementA.advance 1) := rfl

theorem exec_hlt (s : State) : exec .hlt s = .next (s.advance 1).enterHalted := rfl

theorem exec_addM (s : State) :
    exec .addM s = .next (((s.latchByte s.memOperand).add8 s.memOperand).advance 1) := rfl

theorem exec_adi (d8 : Byte) (s : State) :
    exec (.adi d8) s = .next (((s.latchByte d8).add8 d8).advance 2) := rfl

theorem exec_ani (d8 : Byte) (s : State) :
    exec (.ani d8) s = .next (((s.latchByte d8).and8 d8).advance 2) := rfl

theorem exec_jmp (a16 : Word) (s : State) :
    exec (.jmp a16) s = .next ((s.latchWord a16).jumpTo a16) := rfl

theorem exec_call (a16 : Word) (s : State) :
    exec (.call a16) s = .next (((s.latchWord a16).push16 (s.pc + 3)).jumpTo a16) := rfl

theorem exec_ret (s : State) :
    exec .ret s = .next ((s.pop16.2.latchWord s.pop16.1).jumpTo s.pop16.1) := rfl

/-- A conditional jump is taken or not. -/
theorem conditionalJump_taken {cond : Cond} {s : State} (a16 : Word) (h : cond.holds s.flags = true) :
    conditionalJump cond a16 s = .next ((s.latchWord a16).jumpTo a16) := by
  simp [conditionalJump, h]

theorem conditionalJump_notTaken {cond : Cond} {s : State} (a16 : Word)
    (h : cond.holds s.flags = false) :
    conditionalJump cond a16 s = .next ((s.latchWord a16).advance 3) := by
  simp [conditionalJump, h]

/-- Everything a conditional jump can answer. -/
theorem conditionalJump_cases {cond : Cond} {a16 : Word} {s t : State}
    (h : conditionalJump cond a16 s = .next t) :
    (cond.holds s.flags = true ∧ t = (s.latchWord a16).jumpTo a16) ∨
      (cond.holds s.flags = false ∧ t = (s.latchWord a16).advance 3) := by
  unfold conditionalJump at h
  split at h
  · rename_i hc
    exact .inl ⟨hc, by injection h with h; exact h.symm⟩
  · rename_i hc
    exact .inr ⟨by simpa using hc, by injection h with h; exact h.symm⟩

/-- The instructions by kind: every instruction is one of these, so a proof about `exec` has these cases. -/
theorem instr_cases (i : Instr) :
    (∃ r, i = addInstr r) ∨ (∃ cond a16, i = jumpInstr cond a16) ∨ i = .addM ∨ (∃ d8, i = .adi d8) ∨
      (∃ d8, i = .ani d8) ∨ i = .cma ∨ i = .rrc ∨ i = .rar ∨ (∃ a16, i = .jmp a16) ∨
      (∃ a16, i = .call a16) ∨ i = .ret ∨ i = .hlt := by
  cases i with
  | addB => exact .inl ⟨.b, rfl⟩
  | addC => exact .inl ⟨.c, rfl⟩
  | addD => exact .inl ⟨.d, rfl⟩
  | addE => exact .inl ⟨.e, rfl⟩
  | addH => exact .inl ⟨.h, rfl⟩
  | addL => exact .inl ⟨.l, rfl⟩
  | addA => exact .inl ⟨.a, rfl⟩
  | jnz w => exact .inr (.inl ⟨.nz, w, rfl⟩)
  | jz w => exact .inr (.inl ⟨.z, w, rfl⟩)
  | jnc w => exact .inr (.inl ⟨.nc, w, rfl⟩)
  | jc w => exact .inr (.inl ⟨.c, w, rfl⟩)
  | jpo w => exact .inr (.inl ⟨.po, w, rfl⟩)
  | jpe w => exact .inr (.inl ⟨.pe, w, rfl⟩)
  | jp w => exact .inr (.inl ⟨.p, w, rfl⟩)
  | jm w => exact .inr (.inl ⟨.m, w, rfl⟩)
  | _ => simp

/-- A Running machine whose opcode has a handler runs it. -/
theorem step_of_fetch {s : State} {i : Instr} (hr : s.runState = .running)
    (hf : fetchInstr s = some i) : step s = exec i s.latchOpcode := by
  simp [step, hr, hf]

/-- A Running machine whose opcode has no handler takes the fatal path. -/
theorem step_of_unbound {s : State} (hr : s.runState = .running) (hf : fetchInstr s = none) :
    step s = .next (s.raiseUnimplemented s.pc s.opcode) := by
  simp [step, hr, hf]

/-- A stopped machine stays as it is. -/
theorem step_of_stopped {s : State} (hr : s.runState ≠ .running) : step s = .next s := by
  unfold step
  split
  · rename_i h
    exact absurd h hr
  · rfl
  · rfl

/-- Fetching finds no instruction exactly on an unbound opcode. -/
theorem fetchInstr_eq_none (s : State) : fetchInstr s = none ↔ isBound s.opcode = false := by
  unfold fetchInstr isBound
  cases dispatch s.opcode <;> simp

/-- The instruction fetched has the opcode at pc. -/
theorem opcodeOf_of_fetch {s : State} {i : Instr} (h : fetchInstr s = some i) : opcodeOf i = s.opcode := by
  have hd := dispatch_describes s.opcode
  unfold fetchInstr at h
  split at h <;> rename_i heq <;> simp only [heq, Binding.Describes] at hd <;> simp at h <;> subst h
  · exact hd.1
  · exact (hd _).1
  · exact (hd _).1

/-- Everything a step can do. -/
theorem step_cases {s t : State} (h : step s = .next t) :
    (s.runState ≠ .running ∧ t = s) ∨
      (s.runState = .running ∧ fetchInstr s = none ∧ t = s.raiseUnimplemented s.pc s.opcode) ∨
      (∃ i, s.runState = .running ∧ fetchInstr s = some i ∧ exec i s.latchOpcode = .next t) := by
  by_cases hr : s.runState = .running
  · cases hf : fetchInstr s with
    | none =>
      rw [step_of_unbound hr hf] at h
      exact .inr (.inl ⟨hr, rfl, by injection h with h; exact h.symm⟩)
    | some i => exact .inr (.inr ⟨i, hr, rfl, by rw [← step_of_fetch hr hf]; exact h⟩)
  · rw [step_of_stopped hr] at h
    exact .inl ⟨hr, by injection h with h; exact h.symm⟩

end Sys2Proof.Machine
end

