-- ==== Sys2Proof/Laws/PerInstr.lean ====
section
/-! SUPPORT. A family of facts about every instruction as syntax, one lemma per constructor: it is well formed
(R67), its bytes are a well-formed string (R60, R61), and it is 1, 2 or 3 bytes long (R60). -/

namespace Sys2Proof.Laws.Encoded

/-- The instruction and its bytes are well formed, and its length is that of its bytes, at most 3. -/
def Statement (i : Instr) : Prop :=
  i.wellFormed = true ∧ bytesWellFormed (encode i) = true ∧
    (encode i).length = instrLength i ∧ instrLength i ≤ 3

theorem rrc : Statement .rrc := ⟨rfl, rfl, rfl, by decide⟩

theorem rar : Statement .rar := ⟨rfl, rfl, rfl, by decide⟩

theorem cma : Statement .cma := ⟨rfl, rfl, rfl, by decide⟩

theorem hlt : Statement .hlt := ⟨rfl, rfl, rfl, by decide⟩

theorem addB : Statement .addB := ⟨rfl, rfl, rfl, by decide⟩

theorem addC : Statement .addC := ⟨rfl, rfl, rfl, by decide⟩

theorem addD : Statement .addD := ⟨rfl, rfl, rfl, by decide⟩

theorem addE : Statement .addE := ⟨rfl, rfl, rfl, by decide⟩

theorem addH : Statement .addH := ⟨rfl, rfl, rfl, by decide⟩

theorem addL : Statement .addL := ⟨rfl, rfl, rfl, by decide⟩

theorem addM : Statement .addM := ⟨rfl, rfl, rfl, by decide⟩

theorem addA : Statement .addA := ⟨rfl, rfl, rfl, by decide⟩

theorem jnz (a16 : Word) : Statement (.jnz a16) := ⟨rfl, rfl, rfl, Nat.le_refl 3⟩

theorem jmp (a16 : Word) : Statement (.jmp a16) := ⟨rfl, rfl, rfl, Nat.le_refl 3⟩

theorem adi (d8 : Byte) : Statement (.adi d8) := ⟨rfl, rfl, rfl, Nat.le_succ 2⟩

theorem ret : Statement .ret := ⟨rfl, rfl, rfl, by decide⟩

theorem jz (a16 : Word) : Statement (.jz a16) := ⟨rfl, rfl, rfl, Nat.le_refl 3⟩

theorem call (a16 : Word) : Statement (.call a16) := ⟨rfl, rfl, rfl, Nat.le_refl 3⟩

theorem jnc (a16 : Word) : Statement (.jnc a16) := ⟨rfl, rfl, rfl, Nat.le_refl 3⟩

theorem jc (a16 : Word) : Statement (.jc a16) := ⟨rfl, rfl, rfl, Nat.le_refl 3⟩

theorem jpo (a16 : Word) : Statement (.jpo a16) := ⟨rfl, rfl, rfl, Nat.le_refl 3⟩

theorem ani (d8 : Byte) : Statement (.ani d8) := ⟨rfl, rfl, rfl, Nat.le_succ 2⟩

theorem jpe (a16 : Word) : Statement (.jpe a16) := ⟨rfl, rfl, rfl, Nat.le_refl 3⟩

theorem jp (a16 : Word) : Statement (.jp a16) := ⟨rfl, rfl, rfl, Nat.le_refl 3⟩

theorem jm (a16 : Word) : Statement (.jm a16) := ⟨rfl, rfl, rfl, Nat.le_refl 3⟩

end Sys2Proof.Laws.Encoded
end

