-- ==== Sys2Proof/Tests/Slice0.lean ====
section
/-! SUPPORT. Tests: the decoder on every row of the table (words written from R63 to R65), the smoke test of
WellFormed, one step of each instruction with results from spec/95_test_vectors.md, and for every statement
with hypotheses a witness that meets them together. -/

namespace Sys2Proof.Tests

open Sys2Proof Sys2Proof.Machine

/-! ## Helpers -/

/-- The reset state with bytes placed in memory from an address upward. -/
def State.withBytes (s : State) (addr : Nat) (bytes : List Byte) : State :=
  { s with mem := Memory.loadFrom s.mem addr bytes }

/-- The reset state with pc at an address and the code placed there. -/
def codeAt (pc : Word) (bytes : List Byte) : State :=
  State.withBytes { State.reset with pc := pc } pc.toNat bytes

/-- Looks at the next state of a step, if there is one. -/
def afterStep {α : Type} (f : State → α) (s : State) : Option α :=
  match step s with
  | .next t => some (f t)
  | .fault _ => none
  | .refused _ => none

/-- The accumulator and Z, S, P, CY, in the order of the vectors' columns, and pc. -/
def aluView (s : State) : Byte × (Bool × Bool × Bool × Bool) × Word :=
  (s.a, (s.flags.z, s.flags.s, s.flags.p, s.flags.cy), s.pc)

/-- The reset flags with CY set. -/
def carrySet : Flags := { State.reset.flags with cy := true }

/-! ## WellFormed -/

theorem test_every_instruction_wellFormed (i : Instr) : i.wellFormed = true := by
  cases i <;> rfl

theorem test_bytes_empty_refused : bytesWellFormed [] = false := by decide

theorem test_bytes_unbound_refused : bytesWellFormed [0x08] = false := by decide

theorem test_bytes_short_refused :
    bytesWellFormed [0xC6] = false ∧ bytesWellFormed [0xC3, 0x34] = false := by decide

theorem test_bytes_long_refused :
    bytesWellFormed [0x80, 0x00] = false ∧ bytesWellFormed [0xC3, 0x34, 0x12, 0x00] = false := by decide

theorem test_image_too_long_refused : imageWellFormed (List.replicate 65537 0) = false := by
  rw [imageWellFormed, List.length_replicate]
  decide

theorem test_image_full_accepted : imageWellFormed (List.replicate 65536 0) = true := by
  rw [imageWellFormed, List.length_replicate]
  decide

/-! ## Decode: every constructor from a word written bit by bit (R63, R64, R65) -/

theorem test_decode_add_family :
    decode [0b10000000] = .ok (.addB, []) ∧ decode [0b10000001] = .ok (.addC, []) ∧
    decode [0b10000010] = .ok (.addD, []) ∧ decode [0b10000011] = .ok (.addE, []) ∧
    decode [0b10000100] = .ok (.addH, []) ∧ decode [0b10000101] = .ok (.addL, []) ∧
    decode [0b10000110] = .ok (.addM, []) ∧ decode [0b10000111] = .ok (.addA, []) ∧
    decode [0b11000110, 0b01000010] = .ok (.adi 0x42, []) :=
  ⟨rfl, rfl, rfl, rfl, rfl, rfl, rfl, rfl, rfl⟩

theorem test_decode_logic_family :
    decode [0b11100110, 0b00001111] = .ok (.ani 0x0F, []) ∧ decode [0b00101111] = .ok (.cma, []) :=
  ⟨rfl, rfl⟩

theorem test_decode_rotate_family :
    decode [0b00001111] = .ok (.rrc, []) ∧ decode [0b00011111] = .ok (.rar, []) :=
  ⟨rfl, rfl⟩

theorem test_decode_jump_family :
    decode [0b11000010, 0x34, 0x12] = .ok (.jnz 0x1234, []) ∧
    decode [0b11001010, 0x34, 0x12] = .ok (.jz 0x1234, []) ∧
    decode [0b11010010, 0x34, 0x12] = .ok (.jnc 0x1234, []) ∧
    decode [0b11011010, 0x34, 0x12] = .ok (.jc 0x1234, []) ∧
    decode [0b11100010, 0x34, 0x12] = .ok (.jpo 0x1234, []) ∧
    decode [0b11101010, 0x34, 0x12] = .ok (.jpe 0x1234, []) ∧
    decode [0b11110010, 0x34, 0x12] = .ok (.jp 0x1234, []) ∧
    decode [0b11111010, 0x34, 0x12] = .ok (.jm 0x1234, []) ∧
    decode [0b11000011, 0x34, 0x12] = .ok (.jmp 0x1234, []) :=
  ⟨rfl, rfl, rfl, rfl, rfl, rfl, rfl, rfl, rfl⟩

theorem test_decode_call_return_halt :
    decode [0b11001101, 0x00, 0x02] = .ok (.call 0x0200, []) ∧
    decode [0b11001001] = .ok (.ret, []) ∧ decode [0b01110110] = .ok (.hlt, []) :=
  ⟨rfl, rfl, rfl⟩

/-- The document's own unbound opcode (R66), the 8080's NOP, and a string cut off. -/
theorem test_decode_rejects_by_name :
    decode [0x08] = .error (.unimplemented 0x08) ∧ decode [0x00] = .error (.unimplemented 0x00) ∧
    decode [0xC3, 0x34] = .error (.truncated 0xC3) ∧ decode [] = .error .noOpcode :=
  ⟨rfl, rfl, rfl, rfl⟩

/-- The numbering of the opcode table: the second byte is bits 15..8; missing bits are 0. -/
theorem test_decodeTableWord :
    decodeTableWord 24 0x1234C3 = some (.jmp 0x1234) ∧ decodeTableWord 16 0x42C6 = some (.adi 0x42) ∧
    decodeTableWord 8 0xCD = some (.call 0x0000) ∧ decodeTableWord 8 0x08 = none := by decide

/-- An instruction placed at pc is the one the next step runs, from reset. -/
theorem test_withFetchWord :
    afterStep (fun t => (t.a, t.pc)) (State.reset.withFetchWord 16 0x42C6) = some (0x42, 0x0002) := by decide

theorem test_mnemonics : mnemonic .addM = "ADD M" ∧ mnemonic (.jnz 0) = "JNZ" := by decide

/-! ## One step of each instruction; results from 95_test_vectors.md -/

/-- V1 row 2. -/
theorem test_add_b_carry :
    afterStep aluView { codeAt 0 [0x80] with a := 0xFF, b := 0x01 } = some (0x00, (true, false, true, true), 0x0001) := by decide

/-- V1 row 7: AC stays as it was. -/
theorem test_add_b_half_carry_holds_ac :
    afterStep (fun t => (t.a, t.flags.ac)) { codeAt 0 [0x80] with a := 0x0F, b := 0x01 } = some (0x10, false) := by decide

/-- V1 row 13. -/
theorem test_add_c :
    afterStep aluView { codeAt 0 [0x81] with a := 0x01, c := 0x02 } = some (0x03, (false, false, true, false), 0x0001) := by decide

/-- V1 row 13. -/
theorem test_add_d :
    afterStep aluView { codeAt 0 [0x82] with a := 0x01, d := 0x02 } = some (0x03, (false, false, true, false), 0x0001) := by decide

/-- V1 row 13. -/
theorem test_add_e :
    afterStep aluView { codeAt 0 [0x83] with a := 0x01, e := 0x02 } = some (0x03, (false, false, true, false), 0x0001) := by decide

/-- V1 row 13. -/
theorem test_add_h :
    afterStep aluView { codeAt 0 [0x84] with a := 0x01, h := 0x02 } = some (0x03, (false, false, true, false), 0x0001) := by decide

/-- V1 row 12. -/
theorem test_add_l_ignores_carry :
    afterStep aluView { codeAt 0 [0x85] with a := 0x10, l := 0x22, flags := carrySet } = some (0x32, (false, false, false, false), 0x0001) := by decide

/-- V1 row 10. -/
theorem test_add_a_doubles :
    afterStep aluView { codeAt 0 [0x87] with a := 0xC1 } = some (0x82, (false, true, true, true), 0x0001) := by decide

/-- V1 row 11. -/
theorem test_add_a_to_zero :
    afterStep aluView { codeAt 0 [0x87] with a := 0x80 } = some (0x00, (true, false, true, true), 0x0001) := by decide

/-- V2 row 1. -/
theorem test_add_m :
    afterStep aluView (State.withBytes { codeAt 0 [0x86] with a := 0x80, h := 0x12, l := 0x34 } 0x1234 [0x80]) =
      some (0x00, (true, false, true, true), 0x0001) := by decide

/-- V2 row 2: from reset, ADD M reads its own opcode. -/
theorem test_add_m_own_opcode :
    afterStep aluView (codeAt 0 [0x86]) = some (0x86, (false, true, false, false), 0x0001) := by decide

/-- V3 row 2. -/
theorem test_adi_carry :
    afterStep aluView { codeAt 0 [0xC6, 0xFF] with a := 0x05 } = some (0x04, (false, false, false, true), 0x0002) := by decide

/-- V3 row 4: the operand byte of an instruction at 0xFFFF is at 0x0000. -/
theorem test_adi_operand_wraps :
    afterStep aluView (State.withBytes { codeAt 0xFFFF [0xC6] with a := 0x10 } 0 [0x01]) =
      some (0x11, (false, false, true, false), 0x0001) := by decide

/-- V4 row 1. -/
theorem test_ani_clears_carry :
    afterStep aluView { codeAt 0 [0xE6, 0x0F] with a := 0xFF, flags := carrySet } = some (0x0F, (false, false, true, false), 0x0002) := by decide

/-- V4 row 3. -/
theorem test_ani_sign :
    afterStep aluView { codeAt 0 [0xE6, 0xFF] with a := 0x80, flags := { State.reset.flags with z := true } } = some (0x80, (false, true, false, false), 0x0002) := by decide

/-- V5 row 1. -/
theorem test_cma_keeps_flags :
    afterStep aluView { codeAt 0 [0x2F] with a := 0x51, flags := carrySet } = some (0xAE, (false, false, false, true), 0x0001) := by decide

/-- V5 row 2. -/
theorem test_cma_zero_result :
    afterStep aluView { codeAt 0 [0x2F] with a := 0xFF } = some (0x00, (false, false, false, false), 0x0001) := by decide

/-- V6 row 1. -/
theorem test_rrc :
    afterStep aluView { codeAt 0 [0x0F] with a := 0x81 } = some (0xC0, (false, false, false, true), 0x0001) := by decide

/-- V6 row 3. -/
theorem test_rrc_ignores_carry :
    afterStep aluView { codeAt 0 [0x0F] with a := 0x02, flags := carrySet } = some (0x01, (false, false, false, false), 0x0001) := by decide

/-- V7 row 1. -/
theorem test_rar :
    afterStep aluView { codeAt 0 [0x1F] with a := 0x81 } = some (0x40, (false, false, false, true), 0x0001) := by decide

/-- V7 row 3. -/
theorem test_rar_carry_in :
    afterStep aluView { codeAt 0 [0x1F] with a := 0x00, flags := carrySet } = some (0x80, (false, false, false, false), 0x0001) := by decide

/-- V8 row 1. -/
theorem test_jmp :
    afterStep (fun t => t.pc) (codeAt 0x0010 [0xC3, 0x34, 0x12]) = some 0x1234 := by decide

/-- V8 row 2. -/
theorem test_jmp_operand_wraps :
    afterStep (fun t => t.pc) (State.withBytes (codeAt 0xFFFE [0xC3, 0x78]) 0 [0x56]) = some 0x5678 := by decide

/-- V9, JNZ: the flag 0, then 1. -/
theorem test_jnz :
    afterStep (fun t => t.pc) (codeAt 0x0020 [0xC2, 0x00, 0x01]) = some 0x0100 ∧
    afterStep (fun t => t.pc) { codeAt 0x0020 [0xC2, 0x00, 0x01] with
      flags := { State.reset.flags with z := true } } = some 0x0023 := by decide

/-- V9, JZ: the flag 0, then 1. -/
theorem test_jz :
    afterStep (fun t => t.pc) (codeAt 0x0020 [0xCA, 0x00, 0x01]) = some 0x0023 ∧
    afterStep (fun t => t.pc) { codeAt 0x0020 [0xCA, 0x00, 0x01] with
      flags := { State.reset.flags with z := true } } = some 0x0100 := by decide

/-- V9, JNC: the flag 0, then 1. -/
theorem test_jnc :
    afterStep (fun t => t.pc) (codeAt 0x0020 [0xD2, 0x00, 0x01]) = some 0x0100 ∧
    afterStep (fun t => t.pc) { codeAt 0x0020 [0xD2, 0x00, 0x01] with
      flags := { State.reset.flags with cy := true } } = some 0x0023 := by decide

/-- V9, JC: the flag 0, then 1. -/
theorem test_jc :
    afterStep (fun t => t.pc) (codeAt 0x0020 [0xDA, 0x00, 0x01]) = some 0x0023 ∧
    afterStep (fun t => t.pc) { codeAt 0x0020 [0xDA, 0x00, 0x01] with
      flags := { State.reset.flags with cy := true } } = some 0x0100 := by decide

/-- V9, JPO: the flag 0, then 1. -/
theorem test_jpo :
    afterStep (fun t => t.pc) (codeAt 0x0020 [0xE2, 0x00, 0x01]) = some 0x0100 ∧
    afterStep (fun t => t.pc) { codeAt 0x0020 [0xE2, 0x00, 0x01] with
      flags := { State.reset.flags with p := true } } = some 0x0023 := by decide

/-- V9, JPE: the flag 0, then 1. -/
theorem test_jpe :
    afterStep (fun t => t.pc) (codeAt 0x0020 [0xEA, 0x00, 0x01]) = some 0x0023 ∧
    afterStep (fun t => t.pc) { codeAt 0x0020 [0xEA, 0x00, 0x01] with
      flags := { State.reset.flags with p := true } } = some 0x0100 := by decide

/-- V9, JP: the flag 0, then 1. -/
theorem test_jp :
    afterStep (fun t => t.pc) (codeAt 0x0020 [0xF2, 0x00, 0x01]) = some 0x0100 ∧
    afterStep (fun t => t.pc) { codeAt 0x0020 [0xF2, 0x00, 0x01] with
      flags := { State.reset.flags with s := true } } = some 0x0023 := by decide

/-- V9, JM: the flag 0, then 1. -/
theorem test_jm :
    afterStep (fun t => t.pc) (codeAt 0x0020 [0xFA, 0x00, 0x01]) = some 0x0023 ∧
    afterStep (fun t => t.pc) { codeAt 0x0020 [0xFA, 0x00, 0x01] with
      flags := { State.reset.flags with s := true } } = some 0x0100 := by decide

/-- V9, the corner: a jump not taken at 0xFFFD goes on at 0x0000. -/
theorem test_jnz_not_taken_wraps :
    afterStep (fun t => t.pc) { codeAt 0xFFFD [0xC2, 0x00, 0x01] with
      flags := { State.reset.flags with z := true } } = some 0x0000 := by decide

/-- V10 row 1, the document's example. -/
theorem test_call :
    afterStep (fun t => (t.pc, t.sp, t.readByte 0xFFFC, t.readByte 0xFFFD))
      { codeAt 0x0100 [0xCD, 0x00, 0x02] with sp := 0xFFFE } =
      some (0x0200, 0xFFFC, 0x03, 0x01) := by decide

/-- V10 row 5: the push overwrites the CALL's own operand bytes; the target is the operand as fetched. -/
theorem test_call_overwrites_itself :
    afterStep (fun t => (t.pc, t.sp, t.readByte 0x0101, t.readByte 0x0102))
      { codeAt 0x0100 [0xCD, 0x00, 0x02] with sp := 0x0103 } =
      some (0x0200, 0x0101, 0x03, 0x01) := by decide

/-- V11 row 1, the document's example. -/
theorem test_ret :
    afterStep (fun t => (t.pc, t.sp))
      (State.withBytes { codeAt 0x0200 [0xC9] with sp := 0xFFFC } 0xFFFC [0x03, 0x01]) =
      some (0x0103, 0xFFFE) := by decide

/-- V11 row 2: a pop straddles the end of memory. -/
theorem test_ret_wraps :
    afterStep (fun t => (t.pc, t.sp))
      (State.withBytes (State.withBytes { codeAt 0x0300 [0xC9] with sp := 0xFFFF } 0xFFFF [0x34]) 0 [0x12]) =
      some (0x1234, 0x0001) := by decide

/-- V12 row 1. -/
theorem test_hlt :
    afterStep (fun t => (t.pc, t.runState)) (codeAt 0x0005 [0x76]) = some (0x0006, .halted) := by decide

/-- V12 row 2. -/
theorem test_hlt_wraps :
    afterStep (fun t => (t.pc, t.runState)) (codeAt 0xFFFF [0x76]) = some (0x0000, .halted) := by decide

/-- V13 row 1, the document's example, with the ports of S6. -/
theorem test_unbound_faults :
    afterStep (fun t => (t.faultAddr, t.faultOpcode, t.runState, t.a, t.flags.cy))
      { codeAt 0x1234 [0x08] with a := 0x77, flags := carrySet } =
      some (0x1234, 0x08, .faulted, 0x77, true) := by decide

/-- V13 rows 2 and 5: 0x00 and the 8080's duplicate of JMP are unbound. -/
theorem test_unbound_zero_and_duplicate :
    afterStep (fun t => (t.pc, t.runState)) (codeAt 0 [0x00]) = some (0x0000, .faulted) ∧
    afterStep (fun t => (t.pc, t.runState)) (codeAt 0 [0xCB, 0x34, 0x12]) = some (0x0000, .faulted) := by decide

/-- V14. -/
theorem test_parity_values :
    parity 0x00 8 = true ∧ parity 0x01 8 = false ∧ parity 0x03 8 = true ∧ parity 0x07 8 = false ∧
    parity 0x0F 8 = true ∧ parity 0x80 8 = false ∧ parity 0xFE 8 = false ∧ parity 0xFF 8 = true ∧
    parity 0x103 8 = true := by decide

/-- V15: the launch with the image C6 01. -/
theorem test_launch :
    (State.launch [0xC6, 0x01]).map (fun s => (s.readByte 0, s.readByte 1, s.pc)) =
      some (0xC6, 0x01, 0x0000) := by decide

/-- V15: the first step after that launch. -/
theorem test_launch_first_step :
    (State.launch [0xC6, 0x01]).bind (afterStep aluView) =
      some (0x01, (false, false, false, false), 0x0002) := by decide

/-- R87 on V10 row 1: seven phases of the circuit do what the step does. -/
theorem test_fsm_call :
    (runPhases 7 { state := { codeAt 0x0100 [0xCD, 0x00, 0x02] with sp := 0xFFFE }, phase := .fetch }).phase = .fetch ∧
    (fun t : State => (t.pc, t.sp, t.readByte 0xFFFC, t.readByte 0xFFFD))
      (runPhases 7 { state := { codeAt 0x0100 [0xCD, 0x00, 0x02] with sp := 0xFFFE }, phase := .fetch }).state =
      (0x0200, 0xFFFC, 0x03, 0x01) := by decide

/-! ## Witnesses: each shows states and operands that meet the hypotheses of a statement together -/

theorem witness_DecodeOfEncode : (Instr.jmp 0xFFFF).wellFormed = true := by decide

theorem witness_EncodeOfDecode_LengthFixedByOpcode :
    decode [0xC3, 0xFF, 0xFF, 0x76] = .ok (.jmp 0xFFFF, [0x76]) ∧ decode [0x80] = .ok (.addB, []) ∧
    decode [0xE6, 0x00] = .ok (.ani 0x00, []) :=
  ⟨rfl, rfl, rfl⟩

theorem witness_OpcodeTableRows : (0x00 : Byte) ∉ boundOpcodes ∧ (0xFF : Byte) ∉ boundOpcodes := by decide

theorem witness_UnboundOpcodesTakeFatalPath :
    (codeAt 0 [0x00]).runState = .running ∧ inUnboundRanges ((codeAt 0 [0x00]).readByte 0) = true ∧
    (codeAt 0xFFFF [0xFF]).runState = .running ∧
      inUnboundRanges ((codeAt 0xFFFF [0xFF]).readByte (codeAt 0xFFFF [0xFF]).pc) = true := by decide

theorem witness_ResultFlagsOfByte : (State.reset.flags.zsp 0).z = true := by decide

theorem witness_RotatesChangeOnlyCarry :
    (Instr.rrc = .rrc ∨ Instr.rrc = .rar) ∧ (Instr.rar = .rrc ∨ Instr.rar = .rar) := by decide

/-- Both truth values of each tested flag. -/
theorem witness_ConditionalJumpEffect :
    (State.reset.flags.z = false ∧ State.reset.flags.cy = false ∧ State.reset.flags.p = false ∧
      State.reset.flags.s = false) ∧
    (∃ f : Flags, f.z = true ∧ f.p = true) ∧ (∃ f : Flags, f.cy = true ∧ f.s = true) :=
  ⟨by decide, ⟨⟨true, false, true, false, false⟩, by decide⟩, ⟨⟨false, true, false, true, false⟩, by decide⟩⟩

/-- Addresses outside the two stored bytes, with sp at the wrap. -/
theorem witness_PushContract_CallEffect :
    (0x0000 : Word) ≠ 0x0000 - 1 ∧ (0x0000 : Word) ≠ 0x0000 - 2 ∧
    (0xFFFD : Word) ≠ 0x0000 - 1 ∧ (0xFFFD : Word) ≠ 0x0000 - 2 := by decide

/-- The RET runs right after the CALL, from reset (sp wraps). -/
theorem witness_CallReturnPairing :
    ∃ t u : State, exec (.call 0x0010) State.reset = .next t ∧ u.sp = t.sp ∧
      u.readByte (State.reset.sp - 2) = t.readByte (State.reset.sp - 2) ∧
      u.readByte (State.reset.sp - 1) = t.readByte (State.reset.sp - 1) :=
  ⟨_, _, rfl, rfl, rfl, rfl⟩

theorem witness_CallReadsOperandsBeforePush :
    (codeAt 0xFFFE [0xCD, 0x00]).runState = .running ∧
    (codeAt 0xFFFE [0xCD, 0x00]).readByte (codeAt 0xFFFE [0xCD, 0x00]).pc = 0xCD := by decide

theorem witness_UnimplementedTrapEntry_FaultRecordOnPorts :
    (codeAt 0x1234 [0x08]).runState = .running ∧ (codeAt 0x1234 [0x08]).readByte 0x1234 ∉ boundOpcodes ∧
    (codeAt 0xFFFF [0x00]).runState = .running ∧ (codeAt 0xFFFF [0x00]).readByte 0xFFFF ∉ boundOpcodes := by decide

theorem witness_StoppedStatesAbsorbing :
    ({ State.reset with runState := .halted } : State).runState ≠ .running ∧
    ({ State.reset with runState := .faulted } : State).runState ≠ .running := by decide

theorem witness_StepRunsDecoded :
    (codeAt 0 [0xC6, 0x42, 0x76]).runState = .running ∧
    decode [(codeAt 0 [0xC6, 0x42, 0x76]).readByte 0, (codeAt 0 [0xC6, 0x42, 0x76]).readByte (0 + 1),
      (codeAt 0 [0xC6, 0x42, 0x76]).readByte (0 + 2)] = .ok (.adi 0x42, [0x76]) ∧
    (Instr.adi 0x42).wellFormed = true :=
  ⟨by decide, rfl, by decide⟩

/-- An instruction of each length and kind the statement names. -/
theorem witness_LatchesOfInstructions :
    (instrLength .hlt = 1 ∧ Instr.hlt ≠ .addM ∧ Instr.hlt ≠ .ret) ∧ operandBytes (.adi 0xFF) = [0xFF] ∧
    operandBytes (.jmp 0x1234) = [0x34, 0x12] := by decide

/-- Also the witness of StoppedStatesAbsorbing's third clause. A step from a Running state: on an unbound opcode, on HLT, and on another instruction. -/
theorem witness_StopCauses :
    (∃ t, (codeAt 0 [0x08]).runState = .running ∧ step (codeAt 0 [0x08]) = .next t ∧ t.runState = .faulted) ∧
    (∃ t, (codeAt 0 [0x76]).runState = .running ∧ step (codeAt 0 [0x76]) = .next t ∧ t.runState = .halted) ∧
    (∃ t, (codeAt 0 [0x80]).runState = .running ∧ step (codeAt 0 [0x80]) = .next t ∧ t.runState = .running) :=
  ⟨⟨_, rfl, rfl, rfl⟩, ⟨_, rfl, rfl, rfl⟩, ⟨_, rfl, rfl, rfl⟩⟩

/-- Every clause has an instruction that fetches so, at the end of memory where it can wrap. -/
theorem witness_ProgramCounterChanges_AccessOrder :
    fetchInstr (codeAt 0 [0x08]) = none ∧
    fetchInstr (codeAt 0xFFFD [0xC3, 0x34, 0x12]) = some (.jmp 0x1234) ∧
    fetchInstr (codeAt 0xFFFD [0xCD, 0x34, 0x12]) = some (.call 0x1234) ∧
    fetchInstr (codeAt 0xFFFD [0xC2, 0x34, 0x12]) = some (jumpInstr .nz 0x1234) ∧
    fetchInstr (codeAt 0xFFFF [0xC9]) = some .ret ∧ fetchInstr (codeAt 0xFFFF [0x86]) = some .addM ∧
    (fetchInstr (codeAt 0xFFFF [0x2F]) = some .cma ∧ isTransfer .cma = false ∧ instrLength .cma = 1) ∧
    (fetchInstr (codeAt 0xFFFE [0xC6, 0x01]) = some (.adi 0x01) ∧ isTransfer (.adi 0x01) = false ∧
      instrLength (.adi 0x01) = 2) ∧
    instrLength (.jmp 0x1234) = 3 := by decide

theorem witness_ProgramCounterChanges_step :
    ∃ t, (codeAt 0xFFFF [0x2F]).runState = .running ∧ step (codeAt 0xFFFF [0x2F]) = .next t :=
  ⟨_, rfl, rfl⟩

theorem witness_StackPointerChanges :
    (∃ t, (codeAt 0 [0xCD, 0, 0]).runState = .running ∧ step (codeAt 0 [0xCD, 0, 0]) = .next t ∧
      (codeAt 0 [0xCD, 0, 0]).readByte 0 = 0xCD) ∧
    (∃ t, (codeAt 0 [0xC9, 0x40]).runState = .running ∧ step (codeAt 0 [0xC9, 0x40]) = .next t ∧
      (codeAt 0 [0xC9, 0x40]).readByte 0 = 0xC9) ∧
    (∃ t, (codeAt 0 [0x80]).runState = .running ∧ step (codeAt 0 [0x80]) = .next t ∧
      (codeAt 0 [0x80]).readByte 0 ≠ 0xCD ∧ (codeAt 0 [0x80]).readByte 0 ≠ 0xC9) :=
  ⟨⟨_, rfl, rfl, by decide⟩, ⟨_, rfl, rfl, by decide⟩, ⟨_, rfl, rfl, by decide⟩⟩

/-- Also the witness of OnlyCallWritesMemory, UntouchedState, AuxCarryInert and InterruptEnableInert. -/
theorem witness_FlagAndAccumulatorWriters :
    (∃ t, step (codeAt 0 [0x76]) = .next t) ∧ (codeAt 0 [0x76]).readByte 0 ≠ 0xCD ∧
    (codeAt 0 [0x76]).readByte 0 ∉ resultFlagOpcodes ∧ (codeAt 0 [0x76]).readByte 0 ∉ carryOpcodes ∧
    (codeAt 0 [0x76]).readByte 0 ∉ accumulatorOpcodes :=
  ⟨⟨_, rfl⟩, by decide⟩

theorem witness_StoreThenLoad_WordAccess :
    (0x0000 : Word) ≠ 0xFFFF ∧ (0x0001 : Word) ≠ 0xFFFF ∧ (0x0001 : Word) ≠ 0xFFFF + 1 := by decide

/-- An image of one byte: its first and last byte, an address above it, and an image that is too long. -/
theorem witness_LaunchPlacesImage :
    ([0x76] : List Byte).length ≤ 65536 ∧ 0 < ([0x76] : List Byte).length ∧
    ([0x76] : List Byte).length ≤ (0x0001 : Word).toNat ∧ ([0x76] : List Byte).length ≤ (0xFFFF : Word).toNat ∧
    65536 < (List.replicate 65537 (0 : Byte)).length := by
  refine ⟨by decide, by decide, by decide, by decide, ?_⟩
  rw [List.length_replicate]
  decide

/-- A Running state with code in memory meets the invariant, and steps. -/
theorem witness_StepKeepsInvariant :
    Inv (codeAt 0 [0x76]) ∧ ∃ t, step (codeAt 0 [0x76]) = .next t :=
  ⟨⟨by decide, fun h => absurd h (by decide), fun h => absurd h (by decide), fun h => absurd h (by decide)⟩,
    _, rfl⟩

/-- A Faulted and a Halted state meet the invariant too. -/
theorem witness_StepKeepsInvariant_stopped :
    Inv { codeAt 0 [0x08] with runState := .faulted, ir := 0x08 } ∧
    Inv { codeAt 0 [0x76] with runState := .halted, ir := 0x76 } :=
  ⟨⟨by decide, fun h => absurd h (by decide), fun _ => by decide, fun h => absurd h (by decide)⟩,
    ⟨by decide, fun h => absurd h (by decide), fun h => absurd h (by decide), fun _ => rfl⟩⟩

theorem witness_ResetMeetsInvariant : Memory.wf (codeAt 0xFFFF [0x76]).mem = true := by decide

/-- An image that launches, and the empty one. -/
theorem witness_LaunchMeetsInvariant :
    (∃ s, State.launch [0x76] = some s) ∧ (∃ s, State.launch [] = some s) := ⟨⟨_, rfl⟩, ⟨_, rfl⟩⟩

theorem witness_FsmRefinesStep : (codeAt 0 [0xCD, 0, 0]).runState = .running := by decide

/-- A phase with a write access, and phases with a read access and with none. -/
theorem witness_MemoryChangesOnlyThroughPort :
    portAccess { state := State.reset, phase := .pushHi } = some (.write 0xFFFF 0x00) ∧
    portAccess { state := State.reset, phase := .fetch } = some (.read 0x0000) ∧
    portAccess { state := State.reset, phase := .exec } = none := by decide

/-- At the first phase, between the two writes of the push, and at the end. -/
theorem witness_ResetAbandonsCall :
    (codeAt 0 [0xCD, 0, 0]).readByte (codeAt 0 [0xCD, 0, 0]).pc = 0xCD ∧ 0 ≤ 7 ∧ 5 ≤ 7 ∧ 7 ≤ 7 := by decide

end Sys2Proof.Tests
end

section
/-! SUPPORT. What an instruction can do to pc and run_state, and which opcodes are bound: the facts the
statements on the state (10_state.md) share. -/

namespace Sys2Proof.Machine

@[simp] theorem isTransfer_addInstr (r : Reg) : isTransfer (addInstr r) = false := by
  cases r <;> rfl

@[simp] theorem isTransfer_jumpInstr (cond : Cond) (a16 : Word) :
    isTransfer (jumpInstr cond a16) = true := by
  cases cond <;> rfl

@[simp] theorem instrLength_addInstr (r : Reg) : instrLength (addInstr r) = 1 := by
  cases r <;> rfl

/-- `t` is `s` after an instruction of `n` bytes that writes an ALU result and goes on to the next
instruction; it may latch one byte first (R132, R16). -/
def ResultAnswer (n : Nat) (s t : State) : Prop :=
  ∃ u cls r carryOut, (u = s ∨ ∃ v, u = s.latchByte v) ∧
    t = (u.writeResult cls r carryOut).advance (BitVec.ofNat 16 n)

/-- `t` is `s` after a control transfer to some address, taken or not: the address operand or the popped word
is latched, and CALL has pushed (R140 to R154). -/
def TransferAnswer (s t : State) : Prop :=
  ∃ u w target, (u = s.latchWord w ∨ u = (s.latchWord w).push16 (s.pc + 3) ∨
    u = s.pop16.2.latchWord w) ∧ t = u.jumpTo target

/-- A conditional jump answers as a transfer: not taken, it goes to the next instruction. -/
theorem transferAnswer_conditionalJump {cond : Cond} {a16 : Word} {s t : State}
    (h : conditionalJump cond a16 s = .next t) : TransferAnswer s t := by
  obtain ⟨-, rfl⟩ | ⟨-, rfl⟩ := conditionalJump_cases h
  · exact ⟨_, a16, a16, .inl rfl, rfl⟩
  · exact ⟨_, a16, s.pc + 3, .inl rfl, rfl⟩

/-- Everything an instruction can answer: HLT halts, a transfer jumps, any other writes a result. -/
theorem exec_cases {i : Instr} {s t : State} (h : exec i s = .next t) :
    (i = .hlt ∧ t = (s.advance 1).enterHalted) ∨
      (isTransfer i = false ∧ ResultAnswer (instrLength i) s t) ∨
      (isTransfer i = true ∧ TransferAnswer s t) := by
  obtain ⟨r, rfl⟩ | ⟨cond, a16, rfl⟩ | rfl | ⟨d8, rfl⟩ | ⟨d8, rfl⟩ | rfl | rfl | rfl | ⟨a16, rfl⟩ |
    ⟨a16, rfl⟩ | rfl | rfl := instr_cases i
  case inl =>
    rw [exec_addInstr] at h
    cases h
    exact .inr (.inl ⟨by simp, s, _, _, _, .inl rfl, by rw [instrLength_addInstr]; rfl⟩)
  case inr.inl =>
    rw [exec_jumpInstr] at h
    exact .inr (.inr ⟨by simp, transferAnswer_conditionalJump h⟩)
  all_goals cases h
  · exact .inr (.inl ⟨rfl, _, _, _, _, .inr ⟨_, rfl⟩, rfl⟩)
  · exact .inr (.inl ⟨rfl, _, _, _, _, .inr ⟨_, rfl⟩, rfl⟩)
  · exact .inr (.inl ⟨rfl, _, _, _, _, .inr ⟨_, rfl⟩, rfl⟩)
  · exact .inr (.inl ⟨rfl, s, _, _, _, .inl rfl, rfl⟩)
  · exact .inr (.inl ⟨rfl, s, _, _, _, .inl rfl, rfl⟩)
  · exact .inr (.inl ⟨rfl, s, _, _, _, .inl rfl, rfl⟩)
  · exact .inr (.inr ⟨rfl, _, a16, a16, .inl rfl, rfl⟩)
  · exact .inr (.inr ⟨rfl, _, a16, a16, .inr (.inl rfl), rfl⟩)
  · exact .inr (.inr ⟨rfl, _, _, _, .inr (.inr rfl), rfl⟩)
  · exact .inl ⟨rfl, rfl⟩

/-- An instruction that is no transfer goes past its own bytes, HLT among them (R16). -/
theorem exec_pc_of_not_transfer {i : Instr} {s t : State} (h : exec i s = .next t)
    (hi : isTransfer i = false) : t.pc = s.pc + BitVec.ofNat 16 (instrLength i) := by
  obtain ⟨rfl, rfl⟩ | ⟨-, u, cls, r, carryOut, hu, rfl⟩ | ⟨htransfer, -⟩ := exec_cases h
  · rfl
  · obtain rfl | ⟨v, rfl⟩ := hu <;> simp
  · simp [hi] at htransfer

/-- Only HLT writes run_state (R24, R160). -/
theorem exec_runState_of_ne_hlt {i : Instr} {s t : State} (h : exec i s = .next t) (hi : i ≠ .hlt) :
    t.runState = s.runState := by
  obtain ⟨hhlt, -⟩ | ⟨-, u, cls, r, carryOut, hu, rfl⟩ | ⟨-, u, w, target, hu, rfl⟩ := exec_cases h
  · exact absurd hhlt hi
  · obtain rfl | ⟨v, rfl⟩ := hu <;> simp
  · obtain rfl | rfl | rfl := hu <;> simp

theorem opcodeOf_mem_boundOpcodes (i : Instr) : opcodeOf i ∈ boundOpcodes := by
  cases i <;> simp [opcodeOf, boundOpcodes, f1Opcodes, f2Opcodes, f3Opcodes]

theorem opcodeOf_eq_hlt {i : Instr} : opcodeOf i = 0x76 ↔ i = .hlt := by
  cases i <;> simp [opcodeOf]

/-- A bound opcode is the opcode of an instruction. -/
theorem exists_opcodeOf_of_isBound {op : Byte} (h : isBound op = true) : ∃ i, opcodeOf i = op := by
  have hd := dispatch_describes op
  unfold isBound at h
  cases hb : dispatch op with
  | unbound => simp [hb] at h
  | f1 i => exact ⟨i, by rw [hb] at hd; exact hd.1⟩
  | f2 mk => exact ⟨mk 0, by rw [hb] at hd; exact (hd 0).1⟩
  | f3 mk => exact ⟨mk 0, by rw [hb] at hd; exact (hd 0).1⟩

/-- The opcodes with a handler are those of the opcode table (R65, R66). -/
theorem isBound_iff_mem (op : Byte) : isBound op = true ↔ op ∈ boundOpcodes := by
  have hall : ∀ b ∈ boundOpcodes, isBound b = true := by decide
  refine ⟨fun h => ?_, hall op⟩
  obtain ⟨i, rfl⟩ := exists_opcodeOf_of_isBound h
  exact opcodeOf_mem_boundOpcodes i

/-- Fetching finds no instruction exactly on an opcode that is not in the table. -/
theorem fetchInstr_eq_none_iff_not_mem (s : State) : fetchInstr s = none ↔ s.opcode ∉ boundOpcodes := by
  rw [fetchInstr_eq_none, ← isBound_iff_mem, Bool.not_eq_true]

/-- How a step leaves Running (R24, R86): Faulted exactly on an unbound opcode, Halted exactly on HLT. -/
theorem step_stops_iff {s t : State} (hr : s.runState = .running) (h : step s = .next t) :
    (t.runState = .halted ↔ s.opcode = 0x76) ∧ (t.runState = .faulted ↔ s.opcode ∉ boundOpcodes) := by
  obtain ⟨hstopped, -⟩ | ⟨-, hf, rfl⟩ | ⟨i, -, hf, hexec⟩ := step_cases h
  · exact absurd hr hstopped
  · have hop := (fetchInstr_eq_none_iff_not_mem s).1 hf
    have hne : s.opcode ≠ 0x76 := fun heq => hop (heq ▸ opcodeOf_mem_boundOpcodes .hlt)
    exact ⟨iff_of_false nofun hne, iff_of_true rfl hop⟩
  · rw [← opcodeOf_of_fetch hf, opcodeOf_eq_hlt]
    have hmem := opcodeOf_mem_boundOpcodes i
    by_cases hi : i = .hlt
    · subst hi
      cases hexec
      simp [hmem]
    · simp [exec_runState_of_ne_hlt hexec hi, hr, hi, hmem]

/-- Halting a Halted core changes nothing. -/
theorem enterHalted_of_halted {s : State} (h : s.runState = .halted) : s.enterHalted = s := by
  rw [State.enterHalted, ← h]

/-- The absorbing phases of the circuit change nothing (R24). -/
theorem tick_of_stopped {s : State} (h : s.runState ≠ .running) :
    tick { state := s, phase := phaseOfRunState s.runState } =
      { state := s, phase := phaseOfRunState s.runState } := by
  cases hr : s.runState with
  | running => exact absurd hr h
  | halted => simp [phaseOfRunState, tick, haltPhase, enterHalted_of_halted hr]
  | faulted => simp [phaseOfRunState, tick, faultPhase, hr]

/-- The absorbing phases of the circuit access no memory (R24). -/
theorem portAccess_of_stopped {s : State} (h : s.runState ≠ .running) :
    portAccess { state := s, phase := phaseOfRunState s.runState } = none := by
  cases hr : s.runState with
  | running => exact absurd hr h
  | halted => rfl
  | faulted => rfl

end Sys2Proof.Machine
end

section
/-! SUPPORT. The two inert bits, AC (R20) and inte (R23). Setting them commutes with every operation of the
state and so with a step; a bit that may be set before a step or after it alike is neither read nor written. -/

namespace Sys2Proof.Machine

/-- The same state with both inert bits given. -/
def State.withInert (s : State) (ac inte : Bool) : State :=
  { s with flags := { s.flags with ac := ac }, inte := inte }

theorem withAux_eq (s : State) (bit : Bool) : withAux s bit = s.withInert bit s.inte := rfl

theorem withInte_eq (s : State) (bit : Bool) : withInte s bit = s.withInert s.flags.ac bit := rfl

theorem withInert_self (s : State) : s.withInert s.flags.ac s.inte = s := rfl

section
variable (s : State) (ac inte : Bool)

/-! What an operation reads is not changed by the inert bits. -/

@[simp] theorem withInert_runState : (s.withInert ac inte).runState = s.runState := rfl
@[simp] theorem withInert_pc : (s.withInert ac inte).pc = s.pc := rfl
@[simp] theorem withInert_a : (s.withInert ac inte).a = s.a := rfl
@[simp] theorem withInert_cy : (s.withInert ac inte).flags.cy = s.flags.cy := rfl
@[simp] theorem withInert_opcode : (s.withInert ac inte).opcode = s.opcode := rfl
@[simp] theorem withInert_memOperand : (s.withInert ac inte).memOperand = s.memOperand := rfl
@[simp] theorem withInert_fetchInstr : fetchInstr (s.withInert ac inte) = fetchInstr s := rfl
@[simp] theorem withInert_pop16_value : (s.withInert ac inte).pop16.1 = s.pop16.1 := rfl

@[simp] theorem withInert_reg (r : Reg) : (s.withInert ac inte).reg r = s.reg r := by
  cases r <;> rfl

/-- No condition tests AC (R64). -/
@[simp] theorem withInert_condHolds (cond : Cond) :
    cond.holds (s.withInert ac inte).flags = cond.holds s.flags := by
  cases cond <;> rfl

/-! Every operation commutes with setting the inert bits. -/

@[simp] theorem withInert_latchOpcode :
    (s.withInert ac inte).latchOpcode = s.latchOpcode.withInert ac inte := rfl
@[simp] theorem withInert_raiseUnimplemented (pc0 : Word) (op : Byte) :
    (s.withInert ac inte).raiseUnimplemented pc0 op =
      (s.raiseUnimplemented pc0 op).withInert ac inte := rfl
@[simp] theorem withInert_advance (n : Word) :
    (s.withInert ac inte).advance n = (s.advance n).withInert ac inte := rfl
@[simp] theorem withInert_jumpTo (w : Word) :
    (s.withInert ac inte).jumpTo w = (s.jumpTo w).withInert ac inte := rfl
@[simp] theorem withInert_latchByte (v : Byte) :
    (s.withInert ac inte).latchByte v = (s.latchByte v).withInert ac inte := rfl
@[simp] theorem withInert_latchWord (w : Word) :
    (s.withInert ac inte).latchWord w = (s.latchWord w).withInert ac inte := rfl
@[simp] theorem withInert_push16 (w : Word) :
    (s.withInert ac inte).push16 w = (s.push16 w).withInert ac inte := rfl
@[simp] theorem withInert_pop16_state :
    (s.withInert ac inte).pop16.2 = s.pop16.2.withInert ac inte := rfl
@[simp] theorem withInert_enterHalted :
    (s.withInert ac inte).enterHalted = s.enterHalted.withInert ac inte := rfl

/-- The flags unit holds AC in every class (R132). -/
@[simp] theorem withInert_writeResult (cls : FlagClass) (r : Byte) (carryOut : Bool) :
    (s.withInert ac inte).writeResult cls r carryOut =
      (s.writeResult cls r carryOut).withInert ac inte := by
  cases cls <;> rfl

@[simp] theorem withInert_add8 (y : Byte) :
    (s.withInert ac inte).add8 y = (s.add8 y).withInert ac inte := by
  simp [State.add8]
@[simp] theorem withInert_and8 (y : Byte) :
    (s.withInert ac inte).and8 y = (s.and8 y).withInert ac inte := by
  simp [State.and8]
@[simp] theorem withInert_complementA :
    (s.withInert ac inte).complementA = s.complementA.withInert ac inte := by
  simp [State.complementA]
@[simp] theorem withInert_rotateRight :
    (s.withInert ac inte).rotateRight = s.rotateRight.withInert ac inte := by
  simp [State.rotateRight]
@[simp] theorem withInert_rotateRightCarry :
    (s.withInert ac inte).rotateRightCarry = s.rotateRightCarry.withInert ac inte := by
  simp [State.rotateRightCarry]

end

/-- A conditional jump neither reads nor writes the inert bits. -/
theorem conditionalJump_withInert {cond : Cond} {a16 : Word} {s t : State} (ac inte : Bool)
    (h : conditionalJump cond a16 s = .next t) :
    conditionalJump cond a16 (s.withInert ac inte) = .next (t.withInert ac inte) := by
  obtain ⟨hc, rfl⟩ | ⟨hc, rfl⟩ := conditionalJump_cases h
  · rw [conditionalJump_taken] <;> simp [hc]
  · rw [conditionalJump_notTaken] <;> simp [hc]

/-- No instruction reads or writes the inert bits (R20, R23). -/
theorem exec_withInert {i : Instr} {s t : State} (ac inte : Bool) (h : exec i s = .next t) :
    exec i (s.withInert ac inte) = .next (t.withInert ac inte) := by
  obtain ⟨r, rfl⟩ | ⟨cond, a16, rfl⟩ | rfl | ⟨d8, rfl⟩ | ⟨d8, rfl⟩ | rfl | rfl | rfl | ⟨a16, rfl⟩ |
    ⟨a16, rfl⟩ | rfl | rfl := instr_cases i
  case inl =>
    rw [exec_addInstr] at h ⊢
    cases h
    simp
  case inr.inl =>
    rw [exec_jumpInstr] at h ⊢
    exact conditionalJump_withInert ac inte h
  all_goals cases h
  · simp [exec_addM]
  · simp [exec_adi]
  · simp [exec_ani]
  · simp [exec_cma]
  · simp [exec_rrc]
  · simp [exec_rar]
  · simp [exec_jmp]
  · simp [exec_call]
  · simp [exec_ret]
  · simp [exec_hlt]

/-- Setting the inert bits commutes with a step, of any state. -/
theorem step_withInert {s t : State} (ac inte : Bool) (h : step s = .next t) :
    step (s.withInert ac inte) = .next (t.withInert ac inte) := by
  obtain ⟨hr, rfl⟩ | ⟨hr, hf, rfl⟩ | ⟨i, hr, hf, hexec⟩ := step_cases h
  · exact step_of_stopped hr
  · exact step_of_unbound hr hf
  · exact (step_of_fetch (s := s.withInert ac inte) hr hf).trans (exec_withInert ac inte hexec)

/-- A step writes neither inert bit: setting both to what they are changes no state before the step, and so
none after it. -/
theorem step_keeps_inert {s t : State} (h : step s = .next t) :
    t.flags.ac = s.flags.ac ∧ t.inte = s.inte := by
  have hset := step_withInert s.flags.ac s.inte h
  rw [withInert_self, h] at hset
  injection hset with heq
  exact ⟨congrArg (·.flags.ac) heq, congrArg (·.inte) heq⟩

end Sys2Proof.Machine
end

section
/-! PROOF. The statements on the state (10_state.md). -/

namespace Sys2Proof.Machine

/-- Settles O40: one clause per kind of instruction, by what `exec` answers for it. -/
theorem programCounterChanges : Obligations.ProgramCounterChanges := by
  intro s t hr h
  have hexec : ∀ i, fetchInstr s = some i → exec i s.latchOpcode = .next t := fun i hf => by
    rw [← step_of_fetch hr hf, h]
  refine ⟨fun hf => ?_, fun a16 hf => ?_, fun a16 hf => ?_, fun cond a16 hf => ?_, fun hf => ?_,
    fun i hf hi => ?_⟩
  · rw [step_of_unbound hr hf] at h
    cases h
    rfl
  · cases hexec _ hf
    rfl
  · cases hexec _ hf
    rfl
  · have hjump := hexec _ hf
    rw [exec_jumpInstr] at hjump
    obtain ⟨hc, rfl⟩ | ⟨hc, rfl⟩ := conditionalJump_cases hjump
    · simp [show cond.holds s.flags = true from hc]
    · simp [show cond.holds s.flags = false from hc]
  · cases hexec _ hf
    rfl
  · rw [exec_pc_of_not_transfer (hexec i hf) hi]
    simp [BitVec.toNat_add]

/-- Settles O45: setting AC commutes with a step. -/
theorem auxCarryInert : Obligations.AuxCarryInert := by
  refine ⟨rfl, fun _ => rfl, fun s t h => (step_keeps_inert h).1, fun s t bit h => ?_⟩
  rw [withAux_eq, withAux_eq, (step_keeps_inert h).2]
  exact step_withInert bit s.inte h

/-- Settles O46: setting inte commutes with a step. -/
theorem interruptEnableInert : Obligations.InterruptEnableInert := by
  refine ⟨rfl, fun _ => rfl, fun s t h => (step_keeps_inert h).2, fun s t bit h => ?_⟩
  rw [withInte_eq, withInte_eq, (step_keeps_inert h).1]
  exact step_withInert s.flags.ac bit h

/-- Settles O35: an opcode outside the table has no handler, and the ports are views of the state. -/
theorem faultRecordOnPorts : Obligations.FaultRecordOnPorts := by
  refine ⟨fun s hr hop => ?_, fun t => ⟨rfl, rfl⟩, rfl⟩
  have hf : fetchInstr s = none := (fetchInstr_eq_none_iff_not_mem s).2 hop
  exact ⟨_, step_of_unbound hr hf, rfl, rfl, rfl, rfl, rfl⟩

/-- Settles O36: a stopped state is kept by the step and by the circuit's phase, and a step leaves Running only
on HLT and on an unbound opcode. -/
theorem stoppedStatesAbsorbing : Obligations.StoppedStatesAbsorbing := by
  refine ⟨fun s hs => ⟨step_of_stopped hs, tick_of_stopped hs, portAccess_of_stopped hs⟩, fun _ => rfl,
    fun s t hr h => step_stops_iff hr h, ⟨rfl, rfl, rfl⟩, fun r => ?_⟩
  cases r <;> decide

end Sys2Proof.Machine
end

section
/-! SUPPORT. Byte accesses of the state: what a read finds after a write, and what a second write does (R45). -/

namespace Sys2Proof.Machine

/-- The later of two stores at one address replaces the earlier one. -/
@[simp] theorem store_store_same (m : Memory) (addr : Nat) (v w : Byte) :
    Memory.store (Memory.store m addr v) addr w = Memory.store m addr w := by
  induction m with
  | nil => simp [Memory.store]
  | cons cell rest ih =>
    obtain ⟨k, x⟩ := cell
    obtain hlt | rfl | hgt := lt_trichotomy addr k
    · simp [Memory.store, hlt]
    · simp [Memory.store]
    · simp [Memory.store, hgt.not_gt, hgt.ne', ih]

@[simp] theorem readByte_writeByte_same (s : State) (addr : Word) (v : Byte) :
    (s.writeByte addr v).readByte addr = v := by
  simp [State.readByte]

theorem readByte_writeByte_ne (s : State) {addr other : Word} (v : Byte) (h : other ≠ addr) :
    (s.writeByte addr v).readByte other = s.readByte other := by
  simp [State.readByte, lookup_store_ne s.mem v (mt BitVec.eq_of_toNat_eq h)]

@[simp] theorem writeByte_writeByte_same (s : State) (addr : Word) (v w : Byte) :
    (s.writeByte addr v).writeByte addr w = s.writeByte addr w := by
  simp [State.writeByte]

end Sys2Proof.Machine
end

section
/-! SUPPORT. The instruction fetched and its format: the binding of the opcode at pc, and with it the length
(R60, R61, R83). -/

namespace Sys2Proof.Machine

/-- No instruction is fetched exactly when dispatch finds no handler. -/
theorem dispatch_of_fetch_none {s : State} (h : fetchInstr s = none) : dispatch s.opcode = .unbound := by
  unfold fetchInstr at h
  cases hd : dispatch s.opcode <;> simp [hd] at h ⊢

/-- An instruction is fetched through the binding of its format, which fixes its length. -/
theorem fetchInstr_cases {s : State} {i : Instr} (h : fetchInstr s = some i) :
    (instrLength i = 1 ∧ dispatch s.opcode = .f1 i) ∨
      (instrLength i = 2 ∧ ∃ mk, dispatch s.opcode = .f2 mk) ∨
      (instrLength i = 3 ∧ ∃ mk, dispatch s.opcode = .f3 mk) := by
  have hdesc := dispatch_describes s.opcode
  unfold fetchInstr at h
  cases hd : dispatch s.opcode with
  | unbound => simp [hd] at h
  | f1 j =>
    simp only [hd, Option.some.injEq, Binding.Describes] at h hdesc
    subst h
    exact .inl ⟨by simp [instrLength, hdesc.2], rfl⟩
  | f2 mk =>
    simp only [hd, Option.some.injEq, Binding.Describes] at h hdesc
    subst h
    exact .inr (.inl ⟨by simp [instrLength, (hdesc _).2], mk, rfl⟩)
  | f3 mk =>
    simp only [hd, Option.some.injEq, Binding.Describes] at h hdesc
    subst h
    exact .inr (.inr ⟨by simp [instrLength, (hdesc _).2, addressBytes], mk, rfl⟩)

theorem dispatch_of_fetch_length_one {s : State} {i : Instr} (h : fetchInstr s = some i)
    (hlen : instrLength i = 1) : dispatch s.opcode = .f1 i := by
  obtain ⟨-, hd⟩ | ⟨hlen', -⟩ | ⟨hlen', -⟩ := fetchInstr_cases h
  · exact hd
  all_goals omega

theorem dispatch_of_fetch_length_two {s : State} {i : Instr} (h : fetchInstr s = some i)
    (hlen : instrLength i = 2) : ∃ mk, dispatch s.opcode = .f2 mk := by
  obtain ⟨hlen', -⟩ | ⟨-, hd⟩ | ⟨hlen', -⟩ := fetchInstr_cases h
  case inr.inl => exact hd
  all_goals omega

theorem dispatch_of_fetch_length_three {s : State} {i : Instr} (h : fetchInstr s = some i)
    (hlen : instrLength i = 3) : ∃ mk, dispatch s.opcode = .f3 mk := by
  obtain ⟨hlen', -⟩ | ⟨hlen', -⟩ | ⟨-, hd⟩ := fetchInstr_cases h
  case inr.inr => exact hd
  all_goals omega

theorem opcodeOf_eq_call {i : Instr} : opcodeOf i = opcodeOf (.call 0) ↔ ∃ a16, i = .call a16 := by
  cases i <;> simp [opcodeOf]

end Sys2Proof.Machine
end

section
/-! SUPPORT. The memory accesses of the phases (R87, R88): first of each stretch of phases that every
instruction of a format shares, then of a whole instruction by its kind. -/

namespace Sys2Proof.Machine

/-- Fetch and decode access the opcode byte; what follows starts past it, with IR latched. -/
theorem accessTrace_fetch (n : Nat) (s : State) :
    accessTrace (n + 2) { state := s, phase := .fetch } =
      .read s.pc :: accessTrace n
        { state := s.latchOpcode.advance 1, phase := phaseAfterDecode s.opcode } := rfl

/-- The operand phase of format F2 accesses the one operand byte. -/
theorem accessTrace_opdLo_f2 {s : State} {mk : Byte → Instr} (h : dispatch s.ir = .f2 mk) :
    accessTrace 2 { state := s, phase := .opdLo } = [.read s.pc] := by
  simp [accessTrace, tick, portAccess, phaseAfterOpdLo, h]

/-- The operand phases of format F3 access both operand bytes, the low one first; what follows starts past
them, with the operand latched. -/
theorem accessTrace_opdLo_f3 (n : Nat) {s : State} {mk : Word → Instr} (h : dispatch s.ir = .f3 mk) :
    accessTrace (n + 2) { state := s, phase := .opdLo } =
      .read s.pc :: .read (s.pc + 1) :: accessTrace n
        { state := (s.latchWord (s.readWord s.pc)).advance 2, phase := phaseAfterOpdHi s.ir } := by
  simp [accessTrace, tick, portAccess, phaseAfterOpdLo, h, State.latchWord, State.advance, State.readWord,
    State.readByte, BitVec.add_assoc]

/-- ADD M accesses the byte at HL. -/
theorem accessTrace_memRd (s : State) :
    accessTrace 2 { state := s, phase := .memRd } = [.read s.hl] := rfl

/-- The pop accesses the byte at sp and then the one above it. -/
theorem accessTrace_popLo (s : State) :
    accessTrace 3 { state := s, phase := .popLo } = [.read s.sp, .read (s.sp + 1)] := rfl

/-- The push writes the high byte of pc below sp and then the low byte below that one. -/
theorem accessTrace_pushHi (s : State) :
    accessTrace 3 { state := s, phase := .pushHi } =
      [.write (s.sp - 1) (hiByte s.pc), .write (s.sp - 2) (loByte s.pc)] := by
  have hsp : s.sp - 1#16 - 1#16 = s.sp - 2#16 := by bv_omega
  simp [accessTrace, tick, portAccess, hsp]

/-- The memory accesses of the instruction at pc, in order of time. -/
def State.instrAccesses (s : State) : List Access :=
  accessTrace (phaseCount s.opcode) { state := s, phase := .fetch }

/-- The fatal path accesses the opcode byte alone (R172). -/
theorem instrAccesses_of_unbound {s : State} (h : fetchInstr s = none) : s.instrAccesses = [.read s.pc] := by
  have hd := dispatch_of_fetch_none h
  simp [State.instrAccesses, phaseCount, phaseAfterDecode, hd, accessTrace_fetch, accessTrace, portAccess]

/-- A one-byte instruction without a data access accesses its opcode byte alone. -/
theorem instrAccesses_of_length_one {s : State} {i : Instr} (h : fetchInstr s = some i)
    (hlen : instrLength i = 1) (haddM : i ≠ .addM) (hret : i ≠ .ret) :
    s.instrAccesses = [.read s.pc] := by
  have hd := dispatch_of_fetch_length_one h hlen
  by_cases hhlt : i = .hlt <;>
    simp [State.instrAccesses, phaseCount, phaseAfterDecode, hd, haddM, hret, hhlt, accessTrace_fetch,
      accessTrace, portAccess]

theorem instrAccesses_of_addM {s : State} (h : fetchInstr s = some .addM) :
    s.instrAccesses = [.read s.pc, .read s.hl] := by
  have hd := dispatch_of_fetch_length_one h rfl
  simp [State.instrAccesses, phaseCount, phaseAfterDecode, hd, accessTrace_fetch, accessTrace_memRd, State.hl]

theorem instrAccesses_of_ret {s : State} (h : fetchInstr s = some .ret) :
    s.instrAccesses = [.read s.pc, .read s.sp, .read (s.sp + 1)] := by
  have hd := dispatch_of_fetch_length_one h rfl
  simp [State.instrAccesses, phaseCount, phaseAfterDecode, hd, accessTrace_fetch, accessTrace_popLo]

theorem instrAccesses_of_length_two {s : State} {i : Instr} (h : fetchInstr s = some i)
    (hlen : instrLength i = 2) : s.instrAccesses = [.read s.pc, .read (s.pc + 1)] := by
  obtain ⟨mk, hd⟩ := dispatch_of_fetch_length_two h hlen
  simp [State.instrAccesses, phaseCount, phaseAfterDecode, hd, accessTrace_fetch,
    accessTrace_opdLo_f2 (mk := mk)]

/-- An instruction of format F3 accesses its own three bytes; what follows starts past them, with the operand
latched. -/
theorem accessTrace_of_f3 (n : Nat) {s : State} {mk : Word → Instr} (hd : dispatch s.opcode = .f3 mk) :
    accessTrace (n + 4) { state := s, phase := .fetch } =
      .read s.pc :: .read (s.pc + 1) :: .read (s.pc + 2) :: accessTrace n
        { state := (s.latchOpcode.latchWord (s.readWord (s.pc + 1))).advance 3,
          phase := phaseAfterOpdHi s.opcode } := by
  have hpc : s.pc + 1 + 1 = s.pc + 2 := by bv_omega
  have hu : ((s.latchOpcode.advance 1).latchWord (s.readWord (s.pc + 1))).advance 2 =
      (s.latchOpcode.latchWord (s.readWord (s.pc + 1))).advance 3 := by
    simp [State.advance, State.latchWord, BitVec.add_assoc]
  have hopd := accessTrace_opdLo_f3 n (s := s.latchOpcode.advance 1) hd
  simp only [advance_pc, latchOpcode_pc, hpc] at hopd
  have hphase : phaseAfterDecode s.opcode = .opdLo := by simp [phaseAfterDecode, hd]
  rw [accessTrace_fetch, hphase, hopd, ← hu]
  rfl

theorem instrAccesses_of_length_three {s : State} {i : Instr} (h : fetchInstr s = some i)
    (hlen : instrLength i = 3) (hcall : ∀ a16, i ≠ .call a16) :
    s.instrAccesses = [.read s.pc, .read (s.pc + 1), .read (s.pc + 2)] := by
  obtain ⟨mk, hd⟩ := dispatch_of_fetch_length_three h hlen
  have hop : s.opcode ≠ opcodeOf (.call 0) := by
    rw [← opcodeOf_of_fetch h, ne_eq, opcodeOf_eq_call]
    exact fun ⟨a16, hi⟩ => hcall a16 hi
  simp only [State.instrAccesses, phaseCount, hd, if_neg hop, accessTrace_of_f3 1 hd, phaseAfterOpdHi]
  rfl

/-- CALL writes the address after its three bytes, which it has read before (R53, R153). -/
theorem instrAccesses_of_call {s : State} {a16 : Word} (h : fetchInstr s = some (.call a16)) :
    s.instrAccesses = [.read s.pc, .read (s.pc + 1), .read (s.pc + 2),
      .write (s.sp - 1) (hiByte (s.pc + 3)), .write (s.sp - 2) (loByte (s.pc + 3))] := by
  obtain ⟨mk, hd⟩ := dispatch_of_fetch_length_three h rfl
  have hop : s.opcode = opcodeOf (.call 0) := (opcodeOf_of_fetch h).symm
  simp only [State.instrAccesses, phaseCount, hd, if_pos hop, accessTrace_of_f3 3 hd, phaseAfterOpdHi,
    accessTrace_pushHi]
  rfl

end Sys2Proof.Machine
end

section
/-! PROOF. The statements on memory (20_memory.md). -/

namespace Sys2Proof.Machine

/-- Settles O47, by the laws of byte accesses; a write touches no field but memory. -/
theorem storeThenLoad : Obligations.StoreThenLoad := by
  intro s addr v
  exact ⟨readByte_writeByte_same s addr v, fun _ h => readByte_writeByte_ne s v h,
    writeByte_writeByte_same s addr v v, ⟨rfl, rfl, rfl, rfl, rfl, rfl, rfl⟩, ⟨rfl, rfl, rfl⟩, ⟨rfl, rfl⟩,
    rfl, rfl, rfl⟩

/-- Settles O57: one clause per kind of instruction, by the accesses of its phases. -/
theorem accessOrder : Obligations.AccessOrder := by
  rintro s _ rfl
  exact ⟨instrAccesses_of_unbound, fun _ => instrAccesses_of_length_one, instrAccesses_of_addM,
    instrAccesses_of_ret, fun _ => instrAccesses_of_length_two, fun _ => instrAccesses_of_length_three,
    fun _ => instrAccesses_of_call⟩

end Sys2Proof.Machine
end

section
/-! SUPPORT. The decoder by what dispatch answers for the opcode (R60, R65, R66), the bytes of a word as numbers
(R62), and the opcodes built from a field (R63, R64). -/

namespace Sys2Proof

theorem decode_of_unbound {op : Byte} (h : dispatch op = .unbound) (rest : List Byte) :
    decode (op :: rest) = .error (.unimplemented op) := by
  simp [decode, h]

theorem decode_of_f1 {op : Byte} {i : Instr} (h : dispatch op = .f1 i) (rest : List Byte) :
    decode (op :: rest) = .ok (i, rest) := by
  simp [decode, h]

theorem decode_of_f2 {op : Byte} {mk : Byte → Instr} (h : dispatch op = .f2 mk) (d8 : Byte)
    (rest : List Byte) : decode (op :: d8 :: rest) = .ok (mk d8, rest) := by
  simp [decode, h]

theorem decode_of_f3 {op : Byte} {mk : Word → Instr} (h : dispatch op = .f3 mk) (lo hi : Byte)
    (rest : List Byte) : decode (op :: lo :: hi :: rest) = .ok (mk (pairWord hi lo), rest) := by
  simp [decode, h]

theorem isBound_eq_false_iff (op : Byte) : isBound op = false ↔ dispatch op = .unbound := by
  unfold isBound
  cases dispatch op <;> simp

theorem toNat_pairWord (hi lo : Byte) : (pairWord hi lo).toNat = 256 * hi.toNat + lo.toNat := by
  have hlo : lo.toNat < 2 ^ 8 := lo.isLt
  rw [pairWord, BitVec.toNat_append, ← Nat.shiftLeft_add_eq_or_of_lt hlo, Nat.shiftLeft_eq]
  omega

theorem toNat_hiByte (w : Word) : (hiByte w).toNat = w.toNat / 256 := by
  have hw : w.toNat < 65536 := w.isLt
  rw [hiByte, BitVec.extractLsb'_toNat, Nat.shiftRight_eq_div_pow]
  omega

theorem toNat_loByte (w : Word) : (loByte w).toNat = w.toNat % 256 := by
  rw [loByte, BitVec.extractLsb'_toNat, Nat.shiftRight_zero]

end Sys2Proof

namespace Sys2Proof.Machine

/-- The ranges of R66 cover exactly the values that are not in the table. -/
theorem inUnboundRanges_iff_not_mem (op : Byte) : inUnboundRanges op = true ↔ op ∉ boundOpcodes := by
  have hop : op.toNat < 256 := op.isLt
  simp only [inUnboundRanges, unboundRanges, boundOpcodes, f1Opcodes, f2Opcodes, f3Opcodes, List.any_cons,
    List.any_nil, Bool.or_eq_true, Bool.and_eq_true, decide_eq_true_eq, List.cons_append, List.nil_append,
    List.mem_cons, List.not_mem_nil, ← BitVec.toNat_inj, BitVec.reduceToNat,
    Bool.false_eq_true, or_false]
  omega

/-- The table holds a byte exactly when its numbers hold the byte's number. -/
theorem mem_map_toNat_boundOpcodes {n : Nat} (hn : n < 256) :
    n ∈ boundOpcodes.map BitVec.toNat ↔ BitVec.ofNat 8 n ∈ boundOpcodes := by
  rw [List.mem_map]
  constructor
  · rintro ⟨op, hop, rfl⟩
    rwa [BitVec.ofNat_toNat, BitVec.setWidth_eq]
  · exact fun h => ⟨_, h, by rw [BitVec.toNat_ofNat, Nat.mod_eq_of_lt hn]⟩

theorem length_filter_range_eq_card (p : Nat → Bool) (n : Nat) :
    ((List.range n).filter p).length = ((Finset.range n).filter (fun k => p k)).card := by
  rw [← List.toFinset_range, ← List.toFinset_filter,
    List.toFinset_card_of_nodup (List.nodup_range.filter p)]

/-- The ranges of R66 hold the 256 values of a byte less the 25 of the table. -/
theorem card_inUnboundRanges :
    ((Finset.range 256).filter (fun n => inUnboundRanges (BitVec.ofNat 8 n))).card = 231 := by
  have hcompl : (Finset.range 256).filter (fun n => inUnboundRanges (BitVec.ofNat 8 n)) =
      Finset.range 256 \ (boundOpcodes.map BitVec.toNat).toFinset := by
    ext n
    rw [Finset.mem_filter, Finset.mem_sdiff, List.mem_toFinset, inUnboundRanges_iff_not_mem]
    exact and_congr_right fun hn => not_congr (mem_map_toNat_boundOpcodes (Finset.mem_range.1 hn)).symm
  have hsub : (boundOpcodes.map BitVec.toNat).toFinset ⊆ Finset.range 256 := by
    intro n hn
    obtain ⟨op, -, rfl⟩ := List.mem_map.1 (List.mem_toFinset.1 hn)
    exact Finset.mem_range.2 op.isLt
  have hcard : (boundOpcodes.map BitVec.toNat).toFinset.card = 25 := by decide
  rw [hcompl, Finset.card_sdiff_of_subset hsub, hcard, Finset.card_range]

/-- An opcode outside the table has no handler (R66). -/
theorem isBound_eq_false_iff_not_mem (op : Byte) : isBound op = false ↔ op ∉ boundOpcodes := by
  rw [← isBound_iff_mem, Bool.not_eq_true]

theorem dispatch_of_not_mem {op : Byte} (h : op ∉ boundOpcodes) : dispatch op = .unbound :=
  (isBound_eq_false_iff op).1 ((isBound_eq_false_iff_not_mem op).2 h)

/-- A Running machine on an opcode outside the table takes the fatal path, with pc left on it (R172). -/
theorem step_of_not_mem {s : State} (hr : s.runState = .running) (h : s.opcode ∉ boundOpcodes) :
    step s = .next { s with runState := .faulted, ir := s.opcode } :=
  step_of_unbound hr ((fetchInstr_eq_none_iff_not_mem s).2 h)

theorem toNat_add8_a (s : State) (y : Byte) : (s.add8 y).a.toNat = (s.a.toNat + y.toNat) % 256 :=
  BitVec.toNat_ofNat _ _

theorem toNat_and8_a (s : State) (y : Byte) : (s.and8 y).a.toNat = s.a.toNat &&& y.toNat :=
  BitVec.toNat_and _ _

/-- ADD r is one byte, `10000sss` (R63). -/
theorem encode_addInstr (r : Reg) : encode (addInstr r) = [0b10000#5 ++ r.code] := by
  cases r <;> rfl

theorem code_ne_memOperandCode (r : Reg) : r.code ≠ memOperandCode := by
  cases r <;> decide

/-- A conditional jump is `11ccc010` and its target (R64). -/
theorem encode_jumpInstr (cond : Cond) (a16 : Word) :
    encode (jumpInstr cond a16) = (0b11#2 ++ cond.code ++ 0b010#3) :: addressBytes a16 := by
  cases cond <;> rfl

end Sys2Proof.Machine
end

section
/-! PROOF. The statements on the encoding (30_encoding.md). -/

namespace Sys2Proof.Machine

/-- Settles O4: the listed ranges are the complement of the table, which is where dispatch has no handler. -/
theorem unboundOpcodesTakeFatalPath : Obligations.UnboundOpcodesTakeFatalPath := by
  refine ⟨fun op => ⟨?_, (inUnboundRanges_iff_not_mem op).symm⟩, ?_, fun s hr h => ?_⟩
  · rw [isBound_eq_false_iff_not_mem, inUnboundRanges_iff_not_mem]
  · rw [length_filter_range_eq_card, card_inUnboundRanges]
  · exact step_of_not_mem hr ((inUnboundRanges_iff_not_mem _).1 h)

/-- Settles O5: JMP decodes to `hi:lo`, which is the only word with that value; the operands go into the
adder, the AND and pc as they are. -/
theorem addressOperandAssembly : Obligations.AddressOperandAssembly := by
  refine ⟨toNat_pairWord, fun w => ⟨toNat_hiByte w, toNat_loByte w⟩, fun lo hi a16 => ?_,
    fun d8 => ⟨decode_of_f2 rfl d8 [], decode_of_f2 rfl d8 []⟩, fun d8 a16 s => ⟨?_, ?_, ?_⟩⟩
  · rw [decode_of_f3 (mk := .jmp) rfl, ← toNat_pairWord, BitVec.toNat_inj]
    simp [eq_comm]
  · exact ⟨_, exec_adi d8 s, toNat_add8_a (s.latchByte d8) d8⟩
  · exact ⟨_, exec_ani d8 s, toNat_and8_a (s.latchByte d8) d8⟩
  · exact ⟨_, exec_jmp a16 s, rfl⟩

/-- Settles O3: each row is the decoder at that opcode's binding; every other opcode has none. -/
theorem opcodeTableRows : Obligations.OpcodeTableRows := by
  refine ⟨decode_of_f1 rfl [], decode_of_f1 rfl [], decode_of_f1 rfl [], decode_of_f1 rfl [],
    decode_of_f1 rfl [], decode_of_f1 rfl [], decode_of_f1 rfl [], decode_of_f1 rfl [],
    decode_of_f1 rfl [], decode_of_f1 rfl [], decode_of_f1 rfl [], decode_of_f1 rfl [],
    decode_of_f1 rfl [], fun d8 => ?_, fun lo hi => ?_, fun op rest h => ?_⟩
  · exact ⟨decode_of_f2 rfl d8 [], decode_of_f2 rfl d8 []⟩
  · refine ⟨?_, ?_, ?_, ?_, ?_, ?_, ?_, ?_, ?_, ?_⟩ <;> exact decode_of_f3 rfl lo hi []
  · exact decode_of_unbound (dispatch_of_not_mem h) rest

/-- Settles O6, by the encoding of ADD r for each register. -/
theorem addOpcodeRegisterField : Obligations.AddOpcodeRegisterField :=
  ⟨encode_addInstr, rfl, code_ne_memOperandCode, rfl, rfl, rfl, rfl, rfl, rfl, rfl, rfl⟩

/-- Settles O7, by the encoding of a jump for each condition; half of the conditions negate their flag. -/
theorem jumpOpcodeConditionField : Obligations.JumpOpcodeConditionField := by
  refine ⟨encode_jumpInstr, ⟨rfl, rfl, rfl, rfl, rfl, rfl, rfl, rfl⟩, fun f => ?_⟩
  simp [Cond.holds]

end Sys2Proof.Machine
end

section
/-! SUPPORT. The result flags of a byte (R130, R131), and the one adder: its result, its flags and its frame
(R100), which the three forms of ADD share (R101 to R103). -/

namespace Sys2Proof.Machine

/-- The recursive count of R7 counts the bits that are set. -/
theorem popcount_eq_length_filter (w v : Nat) :
    popcount w v = ((List.range w).filter (fun k => v.testBit k)).length := by
  induction w generalizing v with
  | zero => rfl
  | succ w ih =>
    have hshift : (fun k => v.testBit k) ∘ Nat.succ = fun k => (v / 2).testBit k :=
      funext fun k => Nat.testBit_succ v k
    rw [popcount, ih, List.range_succ_eq_map, List.filter_cons, List.filter_map, hshift, Nat.testBit_zero]
    have hbit : v % 2 = 0 ∨ v % 2 = 1 := Nat.mod_two_eq_zero_or_one v
    obtain h0 | h1 := hbit
    · simp [h0]
    · simp [h1, Nat.add_comm]

/-- The parity of a byte is that of its 1 bits (R130). -/
theorem parity_toNat_iff (r : Byte) : parity r.toNat 8 = true ↔ onesOf r % 2 = 0 := by
  rw [parity, Nat.mod_eq_of_lt r.isLt, popcount_eq_length_filter, beq_iff_eq]
  rfl

/-- Bit 7 of a byte is the sign: it is set from 128 on. -/
theorem getLsbD_seven_iff (r : Byte) : r.getLsbD 7 = true ↔ 128 ≤ r.toNat := by
  have hmsb : r.getLsbD 7 = r.msb := (BitVec.msb_eq_getLsbD_last r).symm
  rw [hmsb, BitVec.msb_eq_decide, decide_eq_true_iff]

theorem flagsDescribe_zsp (f : Flags) (r : Byte) : FlagsDescribe (f.zsp r) r := by
  refine ⟨?_, getLsbD_seven_iff r, parity_toNat_iff r⟩
  have hz : (f.zsp r).z = (r == 0) := rfl
  rw [hz, beq_iff_eq, ← BitVec.toNat_inj, BitVec.ofNat_eq_ofNat, BitVec.toNat_zero]

theorem flagsDescribe_add8 (s : State) (y : Byte) : FlagsDescribe (s.add8 y).flags (s.add8 y).a :=
  flagsDescribe_zsp s.flags (s.add8 y).a

theorem add8_cy_iff (s : State) (y : Byte) :
    (s.add8 y).flags.cy = true ↔ 255 < s.a.toNat + y.toNat :=
  decide_eq_true_iff

@[simp] theorem add8_ac (s : State) (y : Byte) : (s.add8 y).flags.ac = s.flags.ac := rfl

/-! Writing an ALU result touches the accumulator and the flags only (R132). -/

theorem sameGeneral_writeResult (s : State) (cls : FlagClass) (r : Byte) (carryOut : Bool) :
    SameGeneral s (s.writeResult cls r carryOut) := ⟨rfl, rfl, rfl, rfl, rfl, rfl⟩

theorem sameControl_writeResult (s : State) (cls : FlagClass) (r : Byte) (carryOut : Bool) :
    SameControl s (s.writeResult cls r carryOut) := ⟨rfl, rfl, rfl⟩

theorem sameLatches_writeResult (s : State) (cls : FlagClass) (r : Byte) (carryOut : Bool) :
    SameLatches s (s.writeResult cls r carryOut) := ⟨rfl, rfl⟩

theorem sameMemory_writeResult (s : State) (cls : FlagClass) (r : Byte) (carryOut : Bool) :
    SameMemory s (s.writeResult cls r carryOut) := writeResult_readByte s cls r carryOut

/-! Going on to the next instruction touches pc only (R16). -/

theorem SameGeneral.advance {s t : State} (h : SameGeneral s t) (n : Word) : SameGeneral s (t.advance n) := h

theorem SameControl.advance {s t : State} (h : SameControl s t) (n : Word) : SameControl s (t.advance n) := h

theorem SameLatches.advance {s t : State} (h : SameLatches s t) (n : Word) : SameLatches s (t.advance n) := h

theorem SameMemory.advance {s t : State} (h : SameMemory s t) (n : Word) : SameMemory s (t.advance n) := h

theorem toNat_advance_pc (s : State) (n : Nat) :
    (s.advance (BitVec.ofNat 16 n)).pc.toNat = (s.pc.toNat + n) % 65536 := by
  rw [advance_pc, BitVec.toNat_add, BitVec.toNat_ofNat, Nat.add_mod_mod]

/-- What R101 to R103 say alike of an ADD of `n` bytes that takes `s` to `t`: the byte `y` is added as by R100,
pc is `n` further, and nothing else of the architecture changes. -/
def AddsByte (y : Byte) (n : Nat) (s t : State) : Prop :=
  t.a.toNat = (s.a.toNat + y.toNat) % 256 ∧
  FlagsDescribe t.flags t.a ∧ (t.flags.cy = true ↔ 255 < s.a.toNat + y.toNat) ∧
  t.flags.ac = s.flags.ac ∧
  t.pc.toNat = (s.pc.toNat + n) % 65536 ∧ t.sp = s.sp ∧
  SameGeneral s t ∧ SameControl s t ∧ SameMemory s t

theorem addsByte_add8_advance (s : State) (y : Byte) (n : Nat) :
    AddsByte y n s ((s.add8 y).advance (BitVec.ofNat 16 n)) :=
  ⟨toNat_add8_a s y, flagsDescribe_add8 s y, add8_cy_iff s y, add8_ac s y, toNat_advance_pc s n, rfl,
    (sameGeneral_writeResult s _ _ _).advance _, (sameControl_writeResult s _ _ _).advance _,
    (sameMemory_writeResult s _ _ _).advance _⟩

/-- The operand latch is not part of what ADD is said to keep: an ADD from the latched state is one from `s`. -/
theorem addsByte_latchByte {v y : Byte} {n : Nat} {s t : State} (h : AddsByte y n (s.latchByte v) t) :
    AddsByte y n s t := h

end Sys2Proof.Machine
end

section
/-! PROOF. The statements on arithmetic (41_arithmetic.md). -/

namespace Sys2Proof.Machine

/-- Settles O12: the adder by its laws; each of the three forms is the adder on its own operand. -/
theorem sharedAdder : Obligations.SharedAdder := by
  refine ⟨fun s y => ?_, fun s r y => ⟨⟨_, exec_addInstr r s, rfl, rfl⟩, ⟨_, exec_addM s, rfl, rfl⟩,
    ⟨_, exec_adi y s, rfl, rfl⟩⟩⟩
  obtain ⟨hz, -, hp⟩ := flagsDescribe_add8 s y
  rw [toNat_add8_a] at hz
  exact ⟨toNat_add8_a s y, hz, Iff.rfl, hp, add8_cy_iff s y, add8_ac s y, sameGeneral_writeResult s _ _ _,
    sameMemory_writeResult s _ _ _, sameControl_writeResult s _ _ _, sameLatches_writeResult s _ _ _, rfl, rfl⟩

/-- Settles O13: ADD r adds the register's old value, and latches no operand. -/
theorem addRegisterEffect : Obligations.AddRegisterEffect := by
  intro r s
  obtain ⟨ha, hf, hcy, hac, hpc, hsp, hgeneral, hcontrol, hmem⟩ := addsByte_add8_advance s (s.reg r) 1
  exact ⟨encode_addInstr r, _, exec_addInstr r s, ha, hf, hcy, hac, hpc, hsp, hgeneral, hcontrol,
    (sameLatches_writeResult s _ _ _).advance _, hmem⟩

/-- Settles O14: ADD M latches the byte at HL and adds it. -/
theorem addMemoryEffect : Obligations.AddMemoryEffect := fun s =>
  ⟨rfl, _, exec_addM s, addsByte_latchByte (addsByte_add8_advance (s.latchByte s.memOperand) s.memOperand 1)⟩

/-- Settles O15: ADI latches its operand byte and adds it. -/
theorem addImmediateEffect : Obligations.AddImmediateEffect := fun d8 s =>
  ⟨rfl, _, exec_adi d8 s, addsByte_latchByte (addsByte_add8_advance (s.latchByte d8) d8 2)⟩

end Sys2Proof.Machine
end

section
/-! SUPPORT. The AND of R110 and the complement of R111: their results and what they do to the flags. -/

namespace Sys2Proof.Machine

theorem getLsbD_and8_a (s : State) (y : Byte) (k : Nat) :
    (s.and8 y).a.getLsbD k = (s.a.getLsbD k && y.getLsbD k) :=
  BitVec.getLsbD_and

theorem flagsDescribe_and8 (s : State) (y : Byte) : FlagsDescribe (s.and8 y).flags (s.and8 y).a :=
  flagsDescribe_zsp s.flags (s.and8 y).a

@[simp] theorem and8_cy (s : State) (y : Byte) : (s.and8 y).flags.cy = false := rfl

@[simp] theorem and8_ac (s : State) (y : Byte) : (s.and8 y).flags.ac = s.flags.ac := rfl

@[simp] theorem complementA_a (s : State) : s.complementA.a = ~~~ s.a := rfl

@[simp] theorem complementA_flags (s : State) : s.complementA.flags = s.flags := rfl

theorem toNat_complementA_a (s : State) : s.complementA.a.toNat = 255 - s.a.toNat :=
  BitVec.toNat_not

end Sys2Proof.Machine
end

section
/-! PROOF. The statements on the logical group (42_logical.md). -/

namespace Sys2Proof.Machine

/-- Settles O17: ANI latches its operand byte, which is not part of the frame, and ANDs it. -/
theorem andImmediateEffect : Obligations.AndImmediateEffect := fun d8 s =>
  ⟨rfl, _, exec_ani d8 s, fun k _ => getLsbD_and8_a (s.latchByte d8) d8 k, flagsDescribe_and8 _ d8,
    and8_cy _ d8, and8_ac (s.latchByte d8) d8, toNat_advance_pc ((s.latchByte d8).and8 d8) 2, rfl,
    (sameGeneral_writeResult (s.latchByte d8) _ _ _).advance _,
    (sameControl_writeResult (s.latchByte d8) _ _ _).advance _,
    (sameMemory_writeResult (s.latchByte d8) _ _ _).advance _⟩

/-- Settles O18: CMA writes the complement with no flag class, and complementing twice is the identity. -/
theorem complementEffect : Obligations.ComplementEffect := by
  intro s
  have hrestore : ((s.complementA.advance 1).complementA.advance 1).a = s.a := by
    simp only [advance_a, complementA_a, BitVec.not_not]
  exact ⟨rfl, _, exec_cma s, toNat_complementA_a s, complementA_flags s, toNat_advance_pc s.complementA 1, rfl,
    (sameGeneral_writeResult s _ _ _).advance _, (sameControl_writeResult s _ _ _).advance _,
    (sameLatches_writeResult s _ _ _).advance _, (sameMemory_writeResult s _ _ _).advance _,
    _, exec_cma _, hrestore⟩

end Sys2Proof.Machine
end

section
/-! SUPPORT. The shared shape of the two rotates (R120, R121): the result bit by bit, and what a rotate of the
accumulator with a given bit 7 does to the flags and leaves unchanged. -/

namespace Sys2Proof.Machine

/-- The rotated byte is bits 7 to 1 of the old one under the bit filled in. -/
theorem getLsbD_aluRotate (fill : Bool) (x : Byte) (k : Nat) :
    (aluRotate fill x).getLsbD k =
      if k < 7 then (x.extractLsb' 1 7).getLsbD k else (BitVec.ofBool fill).getLsbD (k - 7) :=
  BitVec.getLsbD_append

theorem getLsbD_aluRotate_seven (fill : Bool) (x : Byte) : (aluRotate fill x).getLsbD 7 = fill := by
  rw [getLsbD_aluRotate]
  simp

theorem getLsbD_aluRotate_of_lt (fill : Bool) (x : Byte) {k : Nat} (h : k < 7) :
    (aluRotate fill x).getLsbD k = x.getLsbD (k + 1) := by
  simp [getLsbD_aluRotate, h, Nat.add_comm]

/-- A result of the rotate class writes no flag but CY (R122, R132). -/
theorem sameFlagsButCarry_writeResult_rot (s : State) (r : Byte) (carryOut : Bool) :
    SameFlagsButCarry s (s.writeResult .rot r carryOut) := ⟨rfl, rfl, rfl, rfl⟩

theorem SameFlagsButCarry.advance {s t : State} (h : SameFlagsButCarry s t) (n : Word) :
    SameFlagsButCarry s (t.advance n) := h

theorem writeResult_rot_cy (s : State) (r : Byte) (carryOut : Bool) :
    (s.writeResult .rot r carryOut).flags.cy = s.a.getLsbD 0 := rfl

/-- What R120 to R122 say alike of a rotate that takes `s` to `t`: `fill` goes to bit 7, bit 0 to CY, every
other bit one place down, pc is one further, and nothing else changes. -/
def RotatesIn (fill : Bool) (s t : State) : Prop :=
  t.a.getLsbD 7 = fill ∧ (∀ k < 7, t.a.getLsbD k = s.a.getLsbD (k + 1)) ∧
  t.flags.cy = s.a.getLsbD 0 ∧ SameFlagsButCarry s t ∧
  t.pc.toNat = (s.pc.toNat + 1) % 65536 ∧ t.sp = s.sp ∧
  SameGeneral s t ∧ SameControl s t ∧ SameLatches s t ∧ SameMemory s t

theorem rotatesIn_writeResult_advance (fill : Bool) (s : State) :
    RotatesIn fill s ((s.writeResult .rot (aluRotate fill s.a) false).advance 1) :=
  ⟨getLsbD_aluRotate_seven fill s.a, fun _ hk => getLsbD_aluRotate_of_lt fill s.a hk,
    writeResult_rot_cy s (aluRotate fill s.a) false, (sameFlagsButCarry_writeResult_rot s _ _).advance _,
    toNat_advance_pc (s.writeResult .rot (aluRotate fill s.a) false) 1, rfl,
    (sameGeneral_writeResult s _ _ _).advance _, (sameControl_writeResult s _ _ _).advance _,
    (sameLatches_writeResult s _ _ _).advance _, (sameMemory_writeResult s _ _ _).advance _⟩

end Sys2Proof.Machine
end

section
/-! PROOF. The statements on the rotate group (43_rotate.md). -/

namespace Sys2Proof.Machine

/-- Settles O19: RRC is the shared rotate with bit 0 of the accumulator as the new bit 7. -/
theorem rotateRightEffect : Obligations.RotateRightEffect := fun s =>
  ⟨rfl, _, exec_rrc s, rotatesIn_writeResult_advance (s.a.getLsbD 0) s⟩

/-- Settles O20: RAR is the shared rotate with the previous CY as the new bit 7. -/
theorem rotateThroughCarryEffect : Obligations.RotateThroughCarryEffect := fun s =>
  ⟨rfl, _, exec_rar s, rotatesIn_writeResult_advance s.flags.cy s⟩

/-- Settles O21: both rotates write their result with the rotate class, which changes CY only. -/
theorem rotatesChangeOnlyCarry : Obligations.RotatesChangeOnlyCarry := by
  rintro i s (rfl | rfl)
  · exact ⟨_, exec_rrc s, (sameFlagsButCarry_writeResult_rot s _ _).advance _⟩
  · exact ⟨_, exec_rar s, (sameFlagsButCarry_writeResult_rot s _ _).advance _⟩

end Sys2Proof.Machine
end

section
/-! SUPPORT. The parity of any value and width (R130), and what the result flags say of one another (R131). -/

namespace Sys2Proof.Machine

/-- Masking to `w` bits loses none of the bits parity counts, so the count is that of the bare value (R130). -/
theorem parity_iff (v w : Nat) :
    parity v w = true ↔ ((List.range w).filter (fun k => v.testBit k)).length % 2 = 0 := by
  have hmask : (List.range w).filter (fun k => (v % 2 ^ w).testBit k) =
      (List.range w).filter (fun k => v.testBit k) :=
    List.filter_congr fun k hk => by simp [Nat.testBit_mod_two_pow, List.mem_range.mp hk]
  rw [parity, popcount_eq_length_filter, hmask, beq_iff_eq]

theorem parity_mod_two_pow (v w : Nat) : parity (v % 2 ^ w) w = parity v w := by
  rw [parity, Nat.mod_mod, ← parity]

/-- The XOR of the bits of a list is the starting bit, flipped once for every 1 bit. -/
theorem foldl_xor_eq_length_filter {α : Type} (bit : α → Bool) (l : List α) (acc : Bool) :
    l.foldl (fun acc k => acc ^^ bit k) acc = (acc ^^ decide ((l.filter bit).length % 2 = 1)) := by
  induction l generalizing acc with
  | nil => simp
  | cons k l ih =>
    rw [List.foldl_cons, ih, List.filter_cons]
    cases bit k with
    | false => simp
    | true =>
      have hflip : decide (((l.filter bit).length + 1) % 2 = 1) = !decide ((l.filter bit).length % 2 = 1) := by
        rw [← decide_not, decide_eq_decide, Nat.succ_mod_two_eq_one_iff]
        exact Nat.mod_two_ne_one.symm
      rw [if_pos rfl, List.length_cons, hflip, Bool.xor_true, Bool.not_xor, Bool.xor_not]

theorem parity_eq_not_xor (v w : Nat) :
    parity v w = !((List.range w).foldl (fun acc k => acc ^^ v.testBit k) false) := by
  rw [foldl_xor_eq_length_filter, Bool.false_xor, Bool.eq_iff_iff, parity_iff, Bool.not_eq_true',
    decide_eq_false_iff_not]
  exact Nat.mod_two_ne_one.symm

/-- Flags that describe a byte are consistent: the zero byte has no 1 bits, so even parity and no sign. -/
theorem FlagsDescribe.consistent {f : Flags} {r : Byte} (h : FlagsDescribe f r) : FlagsConsistent f := by
  obtain ⟨hz, hs, hp⟩ := h
  intro hzero
  have hr : r = 0 := BitVec.eq_of_toNat_eq (hz.mp hzero)
  subst hr
  exact ⟨hp.mpr rfl, Bool.eq_false_iff.mpr fun hsign => absurd (hs.mp hsign) (by decide)⟩

theorem FlagsConsistent.not_z_and_s {f : Flags} (h : FlagsConsistent f) : ¬(f.z = true ∧ f.s = true) := by
  rintro ⟨hz, hs⟩
  obtain ⟨-, hs'⟩ := h hz
  exact Bool.false_ne_true (hs'.symm.trans hs)

/-- But for CY, the adder's flags are ZSP of its result (R100). -/
theorem add8_flags_eq_zsp (s : State) (y : Byte) :
    ({ (s.add8 y).flags with cy := s.flags.cy } : Flags) = s.flags.zsp (s.add8 y).a := rfl

/-- But for CY, the AND's flags are ZSP of its result (R110). -/
theorem and8_flags_eq_zsp (s : State) (y : Byte) :
    ({ (s.and8 y).flags with cy := s.flags.cy } : Flags) = s.flags.zsp (s.and8 y).a := rfl

end Sys2Proof.Machine
end

section
/-! PROOF. The statements on parity and the flags unit (44_parity_flags.md). -/

namespace Sys2Proof.Machine

/-- Settles O9: the count and the XOR form hold for every value and width; the worked values are computed. -/
theorem parityCountsOnes : Obligations.ParityCountsOnes :=
  ⟨parity_iff, parity_eq_not_xor, fun v w => (parity_mod_two_pow v w).symm, by decide⟩

/-- Settles O10: the flags describe the byte, and so are consistent; the adder and ANI write them so. -/
theorem resultFlagsOfByte : Obligations.ResultFlagsOfByte := by
  refine ⟨fun f r => ?_, fun s y => ⟨add8_flags_eq_zsp s y, _, exec_ani y s,
    and8_flags_eq_zsp (s.latchByte y) y⟩⟩
  have hdescribe : FlagsDescribe (f.zsp r) r := flagsDescribe_zsp f r
  exact ⟨hdescribe, rfl, rfl, hdescribe.consistent.not_z_and_s, hdescribe.consistent⟩

end Sys2Proof.Machine
end

section
/-! SUPPORT. The stack (R151, R152): what a read finds after a push, what a pop after a push gives back, and what
both keep; and what every control transfer keeps (R140 to R154). -/

namespace Sys2Proof.Machine

/-- What push and pop keep alike: everything but sp and memory (R151, R152). -/
def KeepsButStack (s t : State) : Prop :=
  SameRegisters s t ∧ SameControl s t ∧ SameLatches s t ∧ t.flags = s.flags ∧ t.pc = s.pc

theorem keepsButStack_push16 (s : State) (v : Word) : KeepsButStack s (s.push16 v) :=
  ⟨⟨rfl, rfl, rfl, rfl, rfl, rfl, rfl⟩, ⟨rfl, rfl, rfl⟩, ⟨rfl, rfl⟩, rfl, rfl⟩

theorem keepsButStack_pop16 (s : State) : KeepsButStack s s.pop16.2 :=
  ⟨⟨rfl, rfl, rfl, rfl, rfl, rfl, rfl⟩, ⟨rfl, rfl, rfl⟩, ⟨rfl, rfl⟩, rfl, rfl⟩

/-- The two addresses of a push differ, at the wrap too. -/
theorem sub_one_ne_sub_two (w : Word) : w - 1 ≠ w - 2 := by
  bv_omega

theorem toNat_push16_sp (s : State) (v : Word) :
    (s.push16 v).sp.toNat = (s.sp.toNat + 65534) % 65536 := by
  rw [push16_sp, BitVec.toNat_sub, Nat.add_comm]
  rfl

theorem toNat_pop16_sp (s : State) : s.pop16.2.sp.toNat = (s.sp.toNat + 2) % 65536 :=
  BitVec.toNat_add s.sp 2

/-- The low byte's write, which comes second, leaves the high byte. -/
theorem readByte_push16_high (s : State) (v : Word) : (s.push16 v).readByte (s.sp - 1) = hiByte v :=
  (readByte_writeByte_ne _ _ (sub_one_ne_sub_two s.sp)).trans (readByte_writeByte_same s _ _)

theorem readByte_push16_low (s : State) (v : Word) : (s.push16 v).readByte (s.sp - 2) = loByte v :=
  readByte_writeByte_same _ (s.sp - 2) (loByte v)

theorem readByte_push16_of_ne (s : State) (v : Word) {addr : Word} (hhi : addr ≠ s.sp - 1)
    (hlo : addr ≠ s.sp - 2) : (s.push16 v).readByte addr = s.readByte addr :=
  (readByte_writeByte_ne _ _ hlo).trans (readByte_writeByte_ne s _ hhi)

/-- The pushed word lies at the new sp, low byte first. -/
theorem readWord_push16 (s : State) (v : Word) : (s.push16 v).readWord (s.push16 v).sp = v := by
  have hnext : s.sp - 2 + 1 = s.sp - 1 := by bv_omega
  rw [push16_sp, State.readWord, hnext, readByte_push16_high, readByte_push16_low, pairWord_hiByte_loByte]

theorem pop16_push16_sp (s : State) (v : Word) : (s.push16 v).pop16.2.sp = s.sp :=
  BitVec.sub_add_cancel s.sp 2

/-- No control transfer writes a flag, a general register, inte, run_state or IR, whatever its condition. -/
theorem TransferAnswer.keeps {s t : State} (h : TransferAnswer s t) :
    t.flags = s.flags ∧ SameRegisters s t ∧ SameControl s t := by
  obtain ⟨u, w, target, rfl | rfl | rfl, rfl⟩ := h <;> simp [SameRegisters, SameGeneral, SameControl]

/-- Latching an operand and going to some address does not touch memory. -/
theorem sameMemory_latchWord_jumpTo (s : State) (w target : Word) :
    SameMemory s ((s.latchWord w).jumpTo target) := latchWord_readByte s w

/-- R142 for any condition: whatever proposition the condition decides, the jump is taken when it is true. -/
theorem jumpsWhen_jumpInstr {cond : Cond} {taken : Prop} (a16 : Word) {s : State}
    (htaken : cond.holds s.flags = true ↔ taken) :
    JumpsWhen taken (0b11#2 ++ cond.code ++ 0b010#3) (jumpInstr cond a16) a16 s := by
  refine ⟨encode_jumpInstr cond a16, ?_⟩
  rw [exec_jumpInstr]
  cases hc : cond.holds s.flags with
  | true =>
    have hjump := conditionalJump_taken a16 hc
    obtain ⟨hflags, hregisters, hcontrol⟩ := (transferAnswer_conditionalJump hjump).keeps
    exact ⟨_, hjump, fun _ => rfl, fun hnot => absurd (htaken.1 hc) hnot, rfl, hflags, hregisters,
      hcontrol, sameMemory_latchWord_jumpTo s a16 a16⟩
  | false =>
    have hjump := conditionalJump_notTaken a16 hc
    obtain ⟨hflags, hregisters, hcontrol⟩ := (transferAnswer_conditionalJump hjump).keeps
    exact ⟨_, hjump, fun h => absurd (htaken.2 h) (Bool.eq_false_iff.1 hc), fun _ => toNat_advance_pc s 3,
      rfl, hflags, hregisters, hcontrol, sameMemory_latchWord_jumpTo s a16 (s.pc + 3)⟩

end Sys2Proof.Machine
end

section
/-! PROOF. The statements on control transfer (45_control_transfer.md). -/

namespace Sys2Proof.Machine

/-- Settles O23: JMP latches its operand and jumps to it. -/
theorem jumpEffect : Obligations.JumpEffect := by
  intro a16 s
  have htransfer : TransferAnswer s ((s.latchWord a16).jumpTo a16) := ⟨_, a16, a16, .inl rfl, rfl⟩
  obtain ⟨hflags, hregisters, hcontrol⟩ := htransfer.keeps
  exact ⟨rfl, _, exec_jmp a16 s, rfl, rfl, hflags, hregisters, hcontrol,
    sameMemory_latchWord_jumpTo s a16 a16⟩

/-- Settles O24: the eight are one conditional jump, each at the flag and value its condition code tests (O7). -/
theorem conditionalJumpEffect : Obligations.ConditionalJumpEffect := by
  intro a16 s
  obtain ⟨-, -, hholds⟩ := jumpOpcodeConditionField
  obtain ⟨hnz, hz, hnc, hc, hpo, hpe, hp, hm⟩ := hholds s.flags
  exact ⟨jumpsWhen_jumpInstr a16 hnz, jumpsWhen_jumpInstr a16 hz, jumpsWhen_jumpInstr a16 hnc,
    jumpsWhen_jumpInstr a16 hc, jumpsWhen_jumpInstr a16 hpo, jumpsWhen_jumpInstr a16 hpe,
    jumpsWhen_jumpInstr a16 hp, jumpsWhen_jumpInstr a16 hm⟩

/-- Settles O25: a push is two byte writes at different addresses, so the laws of the byte write give each
clause. -/
theorem pushContract : Obligations.PushContract := fun s v =>
  ⟨toNat_push16_sp s v, readByte_push16_high s v, readByte_push16_low s v, sub_one_ne_sub_two s.sp,
    readWord_push16 s v, fun _ hhi hlo => readByte_push16_of_ne s v hhi hlo, keepsButStack_push16 s v⟩

/-- Settles O26: a pop only reads memory; after a push it reads the pushed word. -/
theorem popContract : Obligations.PopContract :=
  ⟨fun s => ⟨rfl, toNat_pop16_sp s, pop16_readByte s, keepsButStack_pop16 s⟩,
    fun s v => ⟨readWord_push16 s v, pop16_push16_sp s v⟩⟩

/-- Settles O27: CALL pushes pc0 + 3 from the latched state, so its memory is that of the push. -/
theorem callEffect : Obligations.CallEffect := by
  intro a16 s
  have htransfer : TransferAnswer s (((s.latchWord a16).push16 (s.pc + 3)).jumpTo a16) :=
    ⟨_, a16, a16, .inr (.inl rfl), rfl⟩
  have hreturn : (s.pc + 3).toNat = (s.pc.toNat + 3) % 65536 := toNat_advance_pc s 3
  refine ⟨rfl, _, exec_call a16 s, rfl, toNat_push16_sp (s.latchWord a16) (s.pc + 3), ?_, ?_,
    fun _ hhi hlo => readByte_push16_of_ne (s.latchWord a16) (s.pc + 3) hhi hlo, htransfer.keeps⟩
  · rw [← hreturn, ← toNat_hiByte]
    exact congrArg BitVec.toNat (readByte_push16_high (s.latchWord a16) (s.pc + 3))
  · rw [← hreturn, ← toNat_loByte]
    exact congrArg BitVec.toNat (readByte_push16_low (s.latchWord a16) (s.pc + 3))

/-- Settles O28: RET jumps to the word a pop reads at sp. -/
theorem returnEffect : Obligations.ReturnEffect := by
  intro s
  have htransfer : TransferAnswer s ((s.pop16.2.latchWord s.pop16.1).jumpTo s.pop16.1) :=
    ⟨_, s.pop16.1, s.pop16.1, .inr (.inr rfl), rfl⟩
  obtain ⟨hflags, hregisters, hcontrol⟩ := htransfer.keeps
  exact ⟨rfl, _, exec_ret s, toNat_pairWord _ _, toNat_pop16_sp s, hflags, hregisters, hcontrol,
    pop16_readByte s⟩

end Sys2Proof.Machine
end

section
/-! SUPPORT. What going past an instruction and halting keep, and that a halted core stays so (R24, R160). -/

namespace Sys2Proof.Machine

/-- Advancing pc and writing run_state leave every register, latch and byte of memory as before (R160). -/
theorem advance_enterHalted_keeps (s : State) (n : Word) :
    SameRegisters s (s.advance n).enterHalted ∧ SameLatches s (s.advance n).enterHalted ∧
      SameMemory s (s.advance n).enterHalted := by
  refine ⟨?_, ?_, fun addr => ?_⟩
  · simp [SameRegisters, SameGeneral]
  · simp [SameLatches]
  · rw [enterHalted_readByte, advance_readByte]

/-- A core that has entered Halted stays as it is at every step (R24, R160). -/
theorem step_enterHalted (s : State) : step s.enterHalted = .next s.enterHalted :=
  step_of_stopped (by simp)

end Sys2Proof.Machine
end

section
/-! PROOF. The statement on HLT (46_halt.md). -/

namespace Sys2Proof.Machine

/-- Settles O33: HLT goes past itself and enters Halted, which is stopped, so that no later step changes anything. -/
theorem haltEffect : Obligations.HaltEffect := by
  intro s
  obtain ⟨hregisters, hlatches, hmem⟩ := advance_enterHalted_keeps s 1
  exact ⟨rfl, _, exec_hlt s, toNat_advance_pc s 1, rfl, rfl, rfl, rfl, rfl, hregisters, hlatches, hmem,
    rfl, rfl, step_enterHalted (s.advance 1)⟩

end Sys2Proof.Machine
end

section
/-! SUPPORT. What the fatal path keeps, and that a faulted core stays so (R24, R172). -/

namespace Sys2Proof.Machine

/-- The fatal path leaves every register, latch and byte of memory as before (R172). -/
theorem raiseUnimplemented_keeps (s : State) (addr : Word) (opcode : Byte) :
    SameRegisters s (s.raiseUnimplemented addr opcode) ∧ SameLatches s (s.raiseUnimplemented addr opcode) ∧
      SameMemory s (s.raiseUnimplemented addr opcode) := by
  refine ⟨?_, ?_, raiseUnimplemented_readByte s addr opcode⟩
  · simp [SameRegisters, SameGeneral]
  · simp [SameLatches]

/-- A core that has taken the fatal path stays as it is at every step (R24, R172). -/
theorem step_raiseUnimplemented (s : State) (addr : Word) (opcode : Byte) :
    step (s.raiseUnimplemented addr opcode) = .next (s.raiseUnimplemented addr opcode) :=
  step_of_stopped (by simp)

end Sys2Proof.Machine
end

section
/-! PROOF. The statement on the exception (60_exceptions.md). -/

namespace Sys2Proof.Machine

/-- Settles O34: an opcode outside the table has no handler, so the step takes the fatal path from pc, which ends
stopped, and its phases access the opcode byte alone. -/
theorem unimplementedTrapEntry : Obligations.UnimplementedTrapEntry := by
  intro s hr hop
  have hf : fetchInstr s = none := (fetchInstr_eq_none_iff_not_mem s).2 hop
  obtain ⟨hregisters, hlatches, hmem⟩ := raiseUnimplemented_keeps s s.pc s.opcode
  exact ⟨_, step_of_unbound hr hf, rfl, rfl, rfl, rfl, rfl, rfl, hregisters, hlatches, hmem,
    step_raiseUnimplemented s s.pc s.opcode, instrAccesses_of_unbound hf⟩

end Sys2Proof.Machine
end

section
/-! SUPPORT. What memory holds after a byte string is placed in it, and when an image launches (R46, R191). -/

namespace Sys2Proof.Machine

/-- Placing a byte string leaves every address below and above it. -/
theorem lookup_loadFrom_of_outside (m : Memory) (base : Nat) (image : List Byte) {addr : Nat}
    (h : addr < base ∨ base + image.length ≤ addr) :
    Memory.lookup (Memory.loadFrom m base image) addr = Memory.lookup m addr := by
  induction image generalizing m base with
  | nil => rfl
  | cons v rest ih =>
    rw [List.length_cons] at h
    calc Memory.lookup (Memory.loadFrom (Memory.store m base v) (base + 1) rest) addr
        = Memory.lookup (Memory.store m base v) addr := ih _ _ (by omega)
      _ = Memory.lookup m addr := lookup_store_ne m v (by omega)

/-- Byte `k` of a byte string lies `k` above the address it is placed at. -/
theorem lookup_loadFrom_getElem (m : Memory) (base : Nat) (image : List Byte) (k : Nat)
    (hk : k < image.length) :
    Memory.lookup (Memory.loadFrom m base image) (base + k) = some image[k] := by
  induction image generalizing m base k with
  | nil => exact absurd hk (Nat.not_lt_zero k)
  | cons v rest ih =>
    cases k with
    | zero =>
      calc Memory.lookup (Memory.loadFrom (Memory.store m base v) (base + 1) rest) base
          = Memory.lookup (Memory.store m base v) base :=
            lookup_loadFrom_of_outside _ _ _ (.inl (Nat.lt_succ_self base))
        _ = some v := lookup_store_same m base v
    | succ j =>
      have hrest := ih (Memory.store m base v) (base + 1) j (Nat.lt_of_succ_lt_succ hk)
      rw [Nat.add_right_comm] at hrest
      exact hrest

/-- An image is well formed exactly when it fits in memory (R191). -/
theorem imageWellFormed_iff (image : List Byte) : imageWellFormed image = true ↔ image.length ≤ 65536 :=
  decide_eq_true_iff

theorem launch_of_fits {image : List Byte} (h : image.length ≤ 65536) :
    State.launch image = some { State.reset with mem := Memory.loadFrom [] 0 image } :=
  if_pos ((imageWellFormed_iff image).2 h)

theorem launch_of_too_long {image : List Byte} (h : 65536 < image.length) : State.launch image = none :=
  if_neg (mt (imageWellFormed_iff image).1 (Nat.not_le_of_lt h))

/-- A read of an address that memory lists gives the byte listed there. -/
theorem readByte_of_lookup_some {s : State} {addr : Word} {v : Byte}
    (h : Memory.lookup s.mem addr.toNat = some v) : s.readByte addr = v := by
  rw [State.readByte, h, Option.getD_some]

/-- A read of an address that memory does not list gives MEM_INIT there (R28). -/
theorem readByte_of_lookup_none {s : State} {addr : Word} (h : Memory.lookup s.mem addr.toNat = none) :
    s.readByte addr = Config.memInit addr := by
  rw [State.readByte, h, Option.getD_none, Memory.unlisted]

end Sys2Proof.Machine
end

section
/-! SUPPORT. Every step of a Running machine has a next state, and latches the opcode at pc in IR (R80, R87). -/

namespace Sys2Proof.Machine

/-- An instruction always completes: only a conditional jump has two answers (R80, R170). -/
theorem exists_exec_eq_next (i : Instr) (s : State) : ∃ t, exec i s = .next t := by
  obtain ⟨r, rfl⟩ | ⟨cond, a16, rfl⟩ | rfl | ⟨d8, rfl⟩ | ⟨d8, rfl⟩ | rfl | rfl | rfl | ⟨a16, rfl⟩ |
    ⟨a16, rfl⟩ | rfl | rfl := instr_cases i
  case inl => exact ⟨_, exec_addInstr r s⟩
  case inr.inl =>
    rw [exec_jumpInstr]
    cases hc : cond.holds s.flags with
    | true => exact ⟨_, conditionalJump_taken a16 hc⟩
    | false => exact ⟨_, conditionalJump_notTaken a16 hc⟩
  all_goals exact ⟨_, rfl⟩

theorem exists_step_eq_next (s : State) : ∃ t, step s = .next t := by
  by_cases hr : s.runState = .running
  · cases hf : fetchInstr s with
    | none => exact ⟨_, step_of_unbound hr hf⟩
    | some i =>
      rw [step_of_fetch hr hf]
      exact exists_exec_eq_next i s.latchOpcode
  · exact ⟨s, step_of_stopped hr⟩

/-- No instruction writes IR: the fetch has loaded it (R87). -/
theorem exec_ir {i : Instr} {s t : State} (h : exec i s = .next t) : t.ir = s.ir := by
  obtain ⟨-, rfl⟩ | ⟨-, u, cls, r, carryOut, hu, rfl⟩ | ⟨-, htransfer⟩ := exec_cases h
  · rfl
  · obtain rfl | ⟨v, rfl⟩ := hu <;> simp
  · obtain ⟨-, -, -, -, hir⟩ := htransfer.keeps
    exact hir

/-- A step of a Running machine leaves the opcode it fetched in IR, an unbound one too (R87, R172). -/
theorem step_ir_of_running {s t : State} (hr : s.runState = .running) (h : step s = .next t) :
    t.ir = s.opcode := by
  obtain ⟨hstopped, -⟩ | ⟨-, -, rfl⟩ | ⟨i, -, -, hexec⟩ := step_cases h
  · exact absurd hr hstopped
  · rfl
  · exact exec_ir hexec

end Sys2Proof.Machine
end

section
/-! PROOF. The statements on reset and the launch (70_reset_and_hazards.md). -/

namespace Sys2Proof.Machine

/-- Settles O52: the load lists the image's bytes at their addresses and nothing above them. -/
theorem launchPlacesImage : Obligations.LaunchPlacesImage := by
  refine ⟨fun image hfits => ⟨_, launch_of_fits hfits, fun k hk => ?_, fun addr habove => ?_, rfl⟩,
    fun _ => launch_of_too_long⟩
  · have haddr : (BitVec.ofNat 16 k).toNat = 0 + k := by
      rw [BitVec.toNat_ofNat, Nat.zero_add]
      exact Nat.mod_eq_of_lt (hk.trans_le hfits)
    apply readByte_of_lookup_some
    rw [haddr]
    exact lookup_loadFrom_getElem [] 0 image k hk
  · apply readByte_of_lookup_none
    exact lookup_loadFrom_of_outside [] 0 image (.inr (by rwa [Nat.zero_add]))

/-- Settles O51: the reset values by the definition of the reset action; the machine is then Running with pc at 0,
so its step latches the byte there. -/
theorem resetAction : Obligations.ResetAction := by
  intro s phase
  obtain ⟨t, hstep⟩ := exists_step_eq_next s.applyReset
  have hir : t.ir = s.readByte 0 := step_ir_of_running (applyReset_runState s) hstep
  have hreg : ∀ r : Reg, s.applyReset.reg r = 0 := fun r => by cases r <;> rfl
  exact ⟨rfl, rfl, rfl, rfl, applyReset_readByte s, hreg, rfl, rfl, rfl, rfl, rfl, rfl, rfl, rfl, t, hstep,
    hir⟩

end Sys2Proof.Machine
end

section
/-! SUPPORT. The decoder and the encoder are inverse (R60 to R65): what dispatch answers on an instruction's own
opcode, and everything a byte string that decodes can be. -/

namespace Sys2Proof

/-- Dispatch on an instruction's own opcode answers the handler of its format, which makes the instruction of its
operand bytes (R60, R65). -/
theorem dispatch_opcodeOf_cases (i : Instr) :
    (dispatch (opcodeOf i) = .f1 i ∧ operandBytes i = []) ∨
      (∃ mk d8, dispatch (opcodeOf i) = .f2 mk ∧ i = mk d8 ∧ operandBytes i = [d8]) ∨
      (∃ mk a16, dispatch (opcodeOf i) = .f3 mk ∧ i = mk a16 ∧ operandBytes i = addressBytes a16) := by
  cases i with
  | adi d8 | ani d8 => exact .inr (.inl ⟨_, d8, rfl, rfl, rfl⟩)
  | jnz a16 | jmp a16 | jz a16 | call a16 | jnc a16 | jc a16 | jpo a16 | jpe a16 | jp a16 | jm a16 =>
    exact .inr (.inr ⟨_, a16, rfl, rfl, rfl⟩)
  | _ => exact .inl ⟨rfl, rfl⟩

/-- Everything a byte string that decodes can be: a bound opcode with the operand bytes of its format. -/
theorem decode_cases {bytes rest : List Byte} {i : Instr} (h : decode bytes = .ok (i, rest)) :
    ∃ op tail, bytes = op :: tail ∧
      ((dispatch op = .f1 i ∧ tail = rest) ∨
        (∃ mk d8, dispatch op = .f2 mk ∧ i = mk d8 ∧ tail = d8 :: rest) ∨
        (∃ mk lo hi, dispatch op = .f3 mk ∧ i = mk (pairWord hi lo) ∧ tail = lo :: hi :: rest)) := by
  obtain _ | ⟨op, tail⟩ := bytes
  · cases h
  · refine ⟨op, tail, rfl, ?_⟩
    simp only [decode] at h
    split at h <;> cases h
    next hd => exact .inl ⟨hd, rfl⟩
    next hd => exact .inr (.inl ⟨_, _, hd, rfl, rfl⟩)
    next hd => exact .inr (.inr ⟨_, _, _, hd, rfl, rfl⟩)

theorem decode_encode_append (i : Instr) (rest : List Byte) : decode (encode i ++ rest) = .ok (i, rest) := by
  rw [encode, List.cons_append]
  obtain ⟨hd, hops⟩ | ⟨mk, d8, hd, hi, hops⟩ | ⟨mk, a16, hd, hi, hops⟩ := dispatch_opcodeOf_cases i
  · rw [hops, List.nil_append, decode_of_f1 hd]
  · rw [hops, List.singleton_append, decode_of_f2 hd, ← hi]
  · rw [hops, addressBytes, List.cons_append, List.singleton_append, decode_of_f3 hd,
      pairWord_hiByte_loByte, ← hi]

/-- The handler that dispatch answers describes the opcode it was asked for, so no other instruction's bytes
decode to `i`. -/
theorem eq_encode_append_of_decode {bytes rest : List Byte} {i : Instr} (h : decode bytes = .ok (i, rest)) :
    bytes = encode i ++ rest := by
  obtain ⟨op, tail, rfl, hcases⟩ := decode_cases h
  have hdesc := dispatch_describes op
  obtain ⟨hd, rfl⟩ | ⟨mk, d8, hd, rfl, rfl⟩ | ⟨mk, lo, hi, hd, rfl, rfl⟩ := hcases
  · obtain ⟨hop, hops⟩ : (Binding.f1 i).Describes op := hd ▸ hdesc
    simp [encode, hop, hops]
  · obtain ⟨hop, hops⟩ := (hd ▸ hdesc : (Binding.f2 mk).Describes op) d8
    simp [encode, hop, hops]
  · obtain ⟨hop, hops⟩ := (hd ▸ hdesc : (Binding.f3 mk).Describes op) (pairWord hi lo)
    simp [encode, hop, hops, addressBytes]

/-- The opcode alone gives the length, and no format is longer than three bytes (R60, R61). -/
theorem lengthOfOpcode_opcodeOf (i : Instr) :
    lengthOfOpcode (opcodeOf i) = some (instrLength i) ∧ instrLength i ≤ 3 := by
  obtain ⟨hd, hops⟩ | ⟨mk, d8, hd, -, hops⟩ | ⟨mk, a16, hd, -, hops⟩ := dispatch_opcodeOf_cases i <;>
    simp [lengthOfOpcode, hd, instrLength, hops, addressBytes]

end Sys2Proof

namespace Sys2Proof.Machine

/-- The instruction that the three bytes at pc decode to is the one fetched (R83). -/
theorem fetchInstr_of_decode {s : State} {i : Instr} {rest : List Byte}
    (h : decode s.codeBytes = .ok (i, rest)) : fetchInstr s = some i := by
  obtain ⟨op, tail, hbytes, hcases⟩ := decode_cases h
  cases hbytes
  obtain ⟨hd, -⟩ | ⟨mk, d8, hd, rfl, htail⟩ | ⟨mk, lo, hi, hd, rfl, htail⟩ := hcases
  · simp [fetchInstr, hd]
  · cases htail
    simp [fetchInstr, hd]
  · cases htail
    simp [fetchInstr, hd]

end Sys2Proof.Machine
end

section
/-! PROOF. The round trip of the encoding and its lengths (30_encoding.md), and the step as `exec` of what the bytes
at pc decode to (40_fetch_dispatch.md). -/

namespace Sys2Proof.Machine

/-- Settles O1: dispatch on the encoded opcode makes the instruction of its operand bytes again. -/
theorem decodeOfEncode : Obligations.DecodeOfEncode := fun i rest _ => decode_encode_append i rest

/-- Settles O2: every binding describes its opcode, and the operand bytes decoded are those encoded. -/
theorem encodeOfDecode : Obligations.EncodeOfDecode := fun _ _ _ => eq_encode_append_of_decode

/-- Settles O8: the string is the encoding of its instruction (O2), whose first byte fixes the length. -/
theorem lengthFixedByOpcode : Obligations.LengthFixedByOpcode := by
  intro bytes i rest h
  obtain ⟨hlength, hle⟩ := lengthOfOpcode_opcodeOf i
  have hbytes : bytes = opcodeOf i :: (operandBytes i ++ rest) := eq_encode_append_of_decode h
  refine ⟨_, _, hbytes, hlength, ?_, Nat.succ_pos _, hle⟩
  rw [hbytes, List.length_cons, List.length_append, instrLength, Nat.add_right_comm]

/-- Settles O37: what the bytes at pc decode to is fetched, and a Running machine runs what it fetches. -/
theorem stepRunsDecoded : Obligations.StepRunsDecoded := fun _ _ _ hr h _ =>
  step_of_fetch hr (fetchInstr_of_decode h)

end Sys2Proof.Machine
end

section
/-! SUPPORT. The phases of the circuit (R87): what each stretch of phases leads to, the state in which an
instruction reaches S_EXEC, and that S_EXEC then does the rest of what `exec` does. -/

namespace Sys2Proof.Machine

theorem runPhases_add (m n : Nat) (c : Fsm) : runPhases (m + n) c = runPhases n (runPhases m c) := by
  induction m generalizing c with
  | zero => rw [Nat.zero_add, runPhases]
  | succ m ih => rw [Nat.succ_add, runPhases, runPhases, ih]

/-! Stretches of phases. -/

/-- Fetch and decode lead past the opcode, with IR latched. -/
theorem runPhases_fetch (n : Nat) (s : State) :
    runPhases (n + 2) { state := s, phase := .fetch } =
      runPhases n { state := s.latchOpcode.advance 1, phase := phaseAfterDecode s.opcode } := rfl

/-- The operand phase of format F2 leads past the operand byte, with it latched. -/
theorem runPhases_opdLo_f2 {s : State} {mk : Byte → Instr} (h : dispatch s.ir = .f2 mk) :
    runPhases 1 { state := s, phase := .opdLo } =
      { state := (s.latchByte (s.readByte s.pc)).advance 1, phase := .exec } := by
  simp [runPhases, tick, phaseAfterOpdLo, h, State.latchByte, State.advance]

/-- The operand phases of format F3 lead past both operand bytes, with the address latched. -/
theorem runPhases_opdLo_f3 (n : Nat) {s : State} {mk : Word → Instr} (h : dispatch s.ir = .f3 mk) :
    runPhases (n + 2) { state := s, phase := .opdLo } =
      runPhases n { state := (s.latchWord (s.readWord s.pc)).advance 2, phase := phaseAfterOpdHi s.ir } := by
  simp [runPhases, tick, phaseAfterOpdLo, h, State.latchWord, State.advance, State.readWord,
    State.readByte, BitVec.add_assoc]

/-- The push phases push pc, which is already past the CALL (R53). -/
theorem runPhases_pushHi (s : State) :
    runPhases 2 { state := s, phase := .pushHi } = { state := s.push16 s.pc, phase := .exec } := by
  have hsp : s.sp - 1 - 1 = s.sp - 2 := by bv_omega
  simp only [runPhases, tick, hsp, State.push16, State.writeByte]

/-- The pop phases latch the word popped. -/
theorem runPhases_popLo (s : State) :
    runPhases 2 { state := s, phase := .popLo } =
      { state := s.pop16.2.latchWord s.pop16.1, phase := .exec } := by
  simp [runPhases, tick, State.pop16, State.latchWord, State.readWord, State.readByte, BitVec.add_assoc]

/-- The phases of format F3 up to the last operand byte. -/
theorem runPhases_fetch_f3 (n : Nat) {s : State} {mk : Word → Instr} (h : dispatch s.opcode = .f3 mk) :
    runPhases (n + 4) { state := s, phase := .fetch } =
      runPhases n { state := (s.latchOpcode.latchWord (s.readWord (s.pc + 1))).advance 3,
                    phase := phaseAfterOpdHi s.opcode } := by
  have hphase : phaseAfterDecode s.opcode = .opdLo := by simp [phaseAfterDecode, h]
  have hstate : ((s.latchOpcode.advance 1).latchWord (s.readWord (s.pc + 1))).advance 2 =
      (s.latchOpcode.latchWord (s.readWord (s.pc + 1))).advance 3 := by
    simp [State.advance, State.latchWord, BitVec.add_assoc]
  rw [runPhases_fetch, hphase, ← hstate]
  exact runPhases_opdLo_f3 n (s := s.latchOpcode.advance 1) h

/-! The instruction at S_EXEC. -/

/-- The state in which instruction `i`, fetched in `s`, reaches S_EXEC: pc past its bytes, its latches loaded,
CALL's push and RET's pop done (R87). -/
def State.atExec (s : State) : Instr → State
  | .addM => (s.latchByte s.memOperand).advance 1
  | .ret => (s.pop16.2.latchWord s.pop16.1).advance 1
  | .call a16 => ((s.latchWord a16).advance 3).push16 (s.pc + 3)
  | .adi d8 | .ani d8 => (s.latchByte d8).advance 2
  | .jnz a16 | .jmp a16 | .jz a16 | .jnc a16 | .jc a16 | .jpo a16 | .jpe a16 | .jp a16 | .jm a16 =>
    (s.latchWord a16).advance 3
  | _ => s.advance 1

theorem atExec_addInstr (s : State) (r : Reg) : s.atExec (addInstr r) = s.advance 1 := by
  cases r <;> rfl

theorem atExec_jumpInstr (s : State) (cond : Cond) (a16 : Word) :
    s.atExec (jumpInstr cond a16) = (s.latchWord a16).advance 3 := by
  cases cond <;> rfl

@[simp] theorem atExec_ir (s : State) (i : Instr) : (s.atExec i).ir = s.ir := by
  cases i <;> rfl

/-- The latches at S_EXEC: the operand bytes where the format has them; without an operand byte only ADD M and RET
load one. -/
theorem atExec_latches (s : State) (i : Instr) :
    (operandBytes i = [] → i ≠ .addM → i ≠ .ret → SameLatches s (s.atExec i)) ∧
    (∀ d8, operandBytes i = [d8] → (s.atExec i).zLo = d8 ∧ (s.atExec i).wHi = s.wHi) ∧
    (∀ lo hi, operandBytes i = [lo, hi] → (s.atExec i).zLo = lo ∧ (s.atExec i).wHi = hi) := by
  cases i <;> simp [operandBytes, addressBytes, State.atExec, SameLatches]

/-- The instruction that S_EXEC finds in the latches is the one fetched. -/
theorem latchedInstr_atExec {s : State} {i : Instr} (h : s.ir = opcodeOf i) :
    latchedInstr (s.atExec i) = some i := by
  obtain ⟨-, hbyte, haddress⟩ := atExec_latches s i
  rw [latchedInstr, atExec_ir, h]
  obtain ⟨hd, -⟩ | ⟨mk, d8, hd, hi, hops⟩ | ⟨mk, a16, hd, hi, hops⟩ := dispatch_opcodeOf_cases i
  · simp [hd]
  · simp [hd, hbyte d8 hops, ← hi]
  · simp [hd, haddress _ _ hops, ← hi]

theorem execPhase_of_addInstr {s : State} {r : Reg} (h : latchedInstr s = some (addInstr r)) :
    execPhase s = s.add8 (s.reg r) := by
  cases r <;> simp only [execPhase, h, addInstr] <;> rfl

theorem execPhase_of_jumpInstr {s : State} {cond : Cond} {a16 : Word}
    (h : latchedInstr s = some (jumpInstr cond a16)) : execPhase s = execCondPhase cond s := by
  cases cond <;> simp only [execPhase, h, jumpInstr]

/-- A jump to the latches goes to the word latched. -/
theorem jumpToLatches_of_latched {s : State} {w : Word} (hlo : s.zLo = loByte w) (hhi : s.wHi = hiByte w) :
    jumpToLatches s = s.jumpTo w := by
  rw [jumpToLatches, hlo, hhi, pairWord_hiByte_loByte]

/-- S_EXEC of an instruction other than HLT, from the state it is reached in, does the rest of `exec`. -/
theorem exec_eq_execPhase {s : State} {i : Instr} (hir : s.ir = opcodeOf i) (hi : i ≠ .hlt) :
    exec i s = .next (execPhase (s.atExec i)) := by
  have hl := latchedInstr_atExec hir
  obtain ⟨r, rfl⟩ | ⟨cond, a16, rfl⟩ | rfl | ⟨d8, rfl⟩ | ⟨d8, rfl⟩ | rfl | rfl | rfl | ⟨a16, rfl⟩ |
    ⟨a16, rfl⟩ | rfl | rfl := instr_cases i
  case inl =>
    rw [exec_addInstr, execPhase_of_addInstr hl, atExec_addInstr]
    cases r <;> rfl
  case inr.inl =>
    rw [exec_jumpInstr, execPhase_of_jumpInstr hl, atExec_jumpInstr, execCondPhase, conditionalJump,
      jumpToLatches_of_latched (w := a16) rfl rfl]
    exact (apply_ite Host.Outcome.next _ _ _).symm
  all_goals simp only [execPhase, hl]
  · rfl
  · rfl
  · rfl
  · rfl
  · rfl
  · rfl
  · rw [exec_jmp, jumpToLatches_of_latched (w := a16) rfl rfl]
    rfl
  · rw [exec_call, jumpToLatches_of_latched (w := a16) rfl rfl]
    rfl
  · rw [exec_ret, jumpToLatches_of_latched (w := s.pop16.1) rfl rfl]
    rfl
  · exact absurd rfl hi

/-- The format of the instruction fetched, with the operand bytes read from behind the opcode (R60, R83). -/
theorem fetchInstr_operands {s : State} {i : Instr} (h : fetchInstr s = some i) :
    (dispatch s.opcode = .f1 i ∧ operandBytes i = []) ∨
      (∃ mk, dispatch s.opcode = .f2 mk ∧ operandBytes i = [s.operandByte 1]) ∨
      (∃ mk, dispatch s.opcode = .f3 mk ∧ operandBytes i = addressBytes (s.readWord (s.pc + 1))) := by
  have hdesc := dispatch_describes s.opcode
  obtain ⟨-, hd⟩ | ⟨-, mk, hd⟩ | ⟨-, mk, hd⟩ := fetchInstr_cases h <;>
    simp only [fetchInstr, hd, Option.some.injEq, Binding.Describes] at h hdesc
  · exact .inl ⟨hd, hdesc.2⟩
  · subst h
    exact .inr (.inl ⟨mk, hd, (hdesc _).2⟩)
  · subst h
    have hnext : s.operandByte 2 = s.readByte (s.pc + 1 + 1) := by
      rw [State.operandByte, BitVec.add_assoc]
      rfl
    exact .inr (.inr ⟨mk, hd, by rw [(hdesc _).2, hnext]; rfl⟩)

theorem addressBytes_inj {v w : Word} : addressBytes v = addressBytes w ↔ v = w := by
  refine ⟨fun h => ?_, congrArg addressBytes⟩
  injection h with hlo h
  injection h with hhi
  rw [← pairWord_hiByte_loByte v, hlo, hhi, pairWord_hiByte_loByte]

/-! S_EXEC is reached with the operand bytes latched, and pc past them. -/

theorem atExec_of_no_operand {s : State} {i : Instr} (h : operandBytes i = []) (haddM : i ≠ .addM)
    (hret : i ≠ .ret) : s.atExec i = s.advance 1 := by
  cases i with
  | addM => exact absurd rfl haddM
  | ret => exact absurd rfl hret
  | rrc | rar | cma | hlt | addB | addC | addD | addE | addH | addL | addA => rfl
  | _ => simp [operandBytes, addressBytes] at h

theorem atExec_of_byte {s : State} {i : Instr} {d8 : Byte} (h : operandBytes i = [d8]) :
    s.atExec i = (s.latchByte d8).advance 2 := by
  cases i with
  | adi | ani =>
    injection h with h
    rw [← h]
    rfl
  | _ => simp [operandBytes, addressBytes] at h

theorem atExec_of_address {s : State} {i : Instr} {w : Word} (h : operandBytes i = addressBytes w)
    (hcall : ∀ a16, i ≠ .call a16) : s.atExec i = (s.latchWord w).advance 3 := by
  cases i with
  | jnz | jmp | jz | jnc | jc | jpo | jpe | jp | jm =>
    rw [← addressBytes_inj.1 h]
    rfl
  | call a16 => exact absurd rfl (hcall a16)
  | _ => simp [operandBytes, addressBytes] at h

/-- After all its phases but S_EXEC, the circuit is at S_EXEC of the instruction at pc, HLT apart. -/
theorem runPhases_to_exec {s : State} {i : Instr} (hf : fetchInstr s = some i) (hi : i ≠ .hlt) :
    ∃ n, phaseCount s.opcode = n + 1 ∧
      runPhases n { state := s, phase := .fetch } = { state := s.latchOpcode.atExec i, phase := .exec } := by
  obtain ⟨hd, hops⟩ | ⟨mk, hd, hops⟩ | ⟨mk, hd, hops⟩ := fetchInstr_operands hf
  · by_cases haddM : i = .addM
    · subst haddM
      exact ⟨3, by simp [phaseCount, hd], by rw [runPhases_fetch 1, phaseAfterDecode, hd]; rfl⟩
    by_cases hret : i = .ret
    · subst hret
      refine ⟨4, by simp [phaseCount, hd], ?_⟩
      rw [runPhases_fetch 2, phaseAfterDecode, hd]
      exact runPhases_popLo _
    · refine ⟨2, by simp [phaseCount, hd, haddM, hret], ?_⟩
      rw [runPhases_fetch 0, atExec_of_no_operand hops haddM hret]
      simp [runPhases, phaseAfterDecode, hd, haddM, hret, hi]
  · refine ⟨3, by simp [phaseCount, hd], ?_⟩
    have hphase : phaseAfterDecode s.opcode = .opdLo := by simp [phaseAfterDecode, hd]
    rw [runPhases_fetch 1, hphase, runPhases_opdLo_f2 (s := s.latchOpcode.advance 1) hd, atExec_of_byte hops]
    simp [State.advance, State.latchByte, BitVec.add_assoc, State.operandByte, State.latchOpcode, State.readByte]
  · by_cases hcall : ∃ a16, i = .call a16
    · obtain ⟨a16, rfl⟩ := hcall
      have hop : s.opcode = opcodeOf (.call 0) := (opcodeOf_of_fetch hf).symm
      refine ⟨6, by simp only [phaseCount, hd, if_pos hop], ?_⟩
      rw [runPhases_fetch_f3 2 hd, phaseAfterOpdHi, if_pos hop, runPhases_pushHi, ← addressBytes_inj.1 hops]
      rfl
    · have hop : s.opcode ≠ opcodeOf (.call 0) := by rwa [← opcodeOf_of_fetch hf, ne_eq, opcodeOf_eq_call]
      refine ⟨4, by simp only [phaseCount, hd, if_neg hop], ?_⟩
      rw [runPhases_fetch_f3 0 hd, phaseAfterOpdHi, if_neg hop, atExec_of_address hops (not_exists.1 hcall)]
      rfl

/-- The fatal path takes S_FAULT's phase as its third: pc goes back on the opcode (R87, R172). -/
theorem runPhases_of_unbound {s : State} (hr : s.runState = .running) (hf : fetchInstr s = none) :
    runPhases (phaseCount s.opcode) { state := s, phase := .fetch } =
      { state := s.raiseUnimplemented s.pc s.opcode, phase := .fault } := by
  have hd := dispatch_of_fetch_none hf
  have hback : (s.latchOpcode.advance 1).pc - 1 = s.pc := BitVec.add_sub_cancel s.pc 1
  have hrunning : (s.latchOpcode.advance 1).runState = .running := hr
  have hfault : faultPhase (s.latchOpcode.advance 1) = s.raiseUnimplemented s.pc s.opcode := by
    rw [faultPhase, if_pos hrunning, hback]
    rfl
  rw [phaseCount, hd, runPhases_fetch 1, phaseAfterDecode, hd, ← hfault]
  rfl

/-- HLT takes S_HALT's phase as its third (R87, R160). -/
theorem runPhases_of_hlt {s : State} (hf : fetchInstr s = some .hlt) :
    runPhases (phaseCount s.opcode) { state := s, phase := .fetch } =
      { state := (s.latchOpcode.advance 1).enterHalted, phase := .halt } := by
  have hd := dispatch_of_fetch_length_one hf rfl
  rw [phaseCount, hd]
  refine (runPhases_fetch 1 s).trans ?_
  rw [phaseAfterDecode, hd]
  rfl

/-- From S_FETCH of a Running machine, the phases of one instruction lead to what the step answers, at the phase
that stands between two instructions. -/
theorem runPhases_of_step {s t : State} (hr : s.runState = .running) (h : step s = .next t) :
    runPhases (phaseCount s.opcode) { state := s, phase := .fetch } =
      { state := t, phase := phaseOfRunState t.runState } := by
  obtain ⟨hstopped, -⟩ | ⟨-, hf, rfl⟩ | ⟨i, -, hf, hexec⟩ := step_cases h
  · exact absurd hr hstopped
  · exact runPhases_of_unbound hr hf
  · by_cases hi : i = .hlt
    · subst hi
      cases hexec
      exact runPhases_of_hlt hf
    · obtain ⟨n, hn, hrun⟩ := runPhases_to_exec hf hi
      have hstate : phaseOfRunState t.runState = .fetch := by
        rw [exec_runState_of_ne_hlt hexec hi, latchOpcode_runState, hr, phaseOfRunState]
      rw [exec_eq_execPhase (opcodeOf_of_fetch hf).symm hi] at hexec
      cases hexec
      rw [hn, runPhases_add, hrun, hstate]
      rfl

theorem run_succ_of_step (n : Nat) {s t : State} (h : step s = .next t) :
    Host.Core.run Sys2Proof.core (n + 1) s = Host.Core.run Sys2Proof.core n t := by
  have hstep : Sys2Proof.core.step s = .next t := h
  simp only [Host.Core.run, hstep]

end Sys2Proof.Machine
end

section
/-! SUPPORT. What the phases do to memory: only a phase with a write access changes it, so memory after any number
of phases is memory before with the writes of the access trace done in order (R88, R89). -/

namespace Sys2Proof.Machine

/-- What a read finds depends on memory alone. -/
theorem readByte_of_mem_eq {s t : State} (h : t.mem = s.mem) (addr : Word) : t.readByte addr = s.readByte addr := by
  rw [State.readByte, h, ← State.readByte]

/-- Everything S_EXEC can do: an ALU result, or pc. -/
theorem execPhase_cases (s : State) :
    (∃ cls r carryOut, execPhase s = s.writeResult cls r carryOut) ∨ (∃ w, execPhase s = s.jumpTo w) := by
  have hcond : ∀ cond, ∃ w, execCondPhase cond s = s.jumpTo w := by
    intro cond
    rw [execCondPhase]
    split
    · exact ⟨_, rfl⟩
    · exact ⟨s.pc, rfl⟩
  cases hl : latchedInstr s with
  | none => exact .inr ⟨s.pc, by rw [execPhase, hl]; rfl⟩
  | some i =>
    rw [execPhase, hl]
    cases i with
    | jmp | call | ret => exact .inr ⟨_, rfl⟩
    | jnz | jz | jnc | jc | jpo | jpe | jp | jm => exact .inr (hcond _)
    | hlt => exact .inr ⟨s.pc, rfl⟩
    | _ => exact .inl ⟨_, _, _, rfl⟩

/-- S_EXEC does not touch memory (R87). -/
theorem execPhase_mem (s : State) : (execPhase s).mem = s.mem := by
  obtain ⟨cls, r, carryOut, h⟩ | ⟨w, h⟩ := execPhase_cases s
  · rw [h, writeResult_mem]
  · rw [h, jumpTo_mem]

/-- Memory after an access of the port. -/
def Access.apply (mem : Memory) : Access → Memory
  | .read _ => mem
  | .write addr data => Memory.store mem addr.toNat data

/-- A phase changes memory by its own access alone. -/
theorem tick_mem (c : Fsm) : (tick c).state.mem = (portAccess c).toList.foldl Access.apply c.state.mem := by
  obtain ⟨s, phase⟩ := c
  cases phase with
  | exec => exact execPhase_mem s
  | fault =>
    simp only [tick, faultPhase]
    split <;> rfl
  | _ => rfl

theorem runPhases_mem (n : Nat) (c : Fsm) :
    (runPhases n c).state.mem = (accessTrace n c).foldl Access.apply c.state.mem := by
  induction n generalizing c with
  | zero => rfl
  | succ n ih => rw [runPhases, ih, accessTrace, List.foldl_append, tick_mem]

theorem accessTrace_add (m n : Nat) (c : Fsm) :
    accessTrace (m + n) c = accessTrace m c ++ accessTrace n (runPhases m c) := by
  induction m generalizing c with
  | zero => rw [Nat.zero_add]; rfl
  | succ m ih => rw [Nat.succ_add, accessTrace, ih, accessTrace, List.append_assoc, runPhases]

/-- Reads change nothing. -/
theorem foldl_apply_of_reads {trace : List Access} (mem : Memory)
    (h : ∀ access ∈ trace, ∃ addr, access = .read addr) : trace.foldl Access.apply mem = mem := by
  induction trace with
  | nil => rfl
  | cons access rest ih =>
    obtain ⟨⟨addr, rfl⟩, hrest⟩ := List.forall_mem_cons.1 h
    exact ih hrest

theorem dispatch_of_call {op : Byte} (h : op = 0xCD) : dispatch op = .f3 .call := by
  rw [h]
  rfl

/-- The phases of a CALL before its first write leave memory; the fifth writes the high byte, and from the sixth on
the whole push is done (R87, R195). -/
theorem runPhases_mem_of_call {s : State} (h : s.opcode = 0xCD) {k : Nat} (hk : k ≤ 7) :
    (runPhases k { state := s, phase := .fetch }).state.mem =
      if k < 5 then s.mem
      else if k < 6 then (s.writeByte (s.sp - 1) (hiByte (s.pc + 3))).mem
      else (s.push16 (s.pc + 3)).mem := by
  have hd := dispatch_of_call h
  have hphase : phaseAfterOpdHi s.opcode = .pushHi := by rw [h]; rfl
  have hexec : ∀ u : State, accessTrace 2 { state := u, phase := .pushHi } =
      accessTrace 3 { state := u, phase := .pushHi } := fun _ => rfl
  rw [runPhases_mem]
  by_cases hfour : k ≤ 4
  · have hsplit := accessTrace_add k (4 - k) { state := s, phase := .fetch }
    rw [Nat.add_sub_cancel' hfour, accessTrace_of_f3 0 hd] at hsplit
    rw [if_pos (by omega)]
    refine foldl_apply_of_reads s.mem fun access hmem => ?_
    have hreads := hsplit ▸ List.mem_append_left _ hmem
    simp only [accessTrace, List.mem_cons, List.not_mem_nil, or_false] at hreads
    obtain rfl | rfl | rfl := hreads <;> exact ⟨_, rfl⟩
  · obtain rfl | rfl | rfl : k = 5 ∨ k = 6 ∨ k = 7 := by omega
    · rw [accessTrace_of_f3 1 hd, hphase]
      rfl
    · rw [accessTrace_of_f3 2 hd, hphase, hexec, accessTrace_pushHi]
      rfl
    · rw [accessTrace_of_f3 3 hd, hphase, accessTrace_pushHi]
      rfl

end Sys2Proof.Machine
end

section
/-! PROOF. The circuit (40_fetch_dispatch.md), and reset in the middle of a CALL (70_reset_and_hazards.md). -/

namespace Sys2Proof.Machine

/-- Settles O55: the step has a next state, and the phases of its kind lead there. -/
theorem fsmRefinesStep : Obligations.FsmRefinesStep := by
  intro s hr
  obtain ⟨t, h⟩ := exists_step_eq_next s
  exact ⟨t, h, runPhases_of_step hr h⟩

/-- Settles O56, by induction on the number of steps: a Running state's step takes the phases of its instruction
(O55), a stopped state's none. -/
theorem fsmRefinesRun : Obligations.FsmRefinesRun := by
  intro n
  induction n with
  | zero => exact fun s => ⟨0, s, rfl, rfl⟩
  | succ n ih =>
    intro s
    obtain ⟨t, h⟩ := exists_step_eq_next s
    obtain ⟨k, u, hrun, hphases⟩ := ih t
    have hrun' : Host.Core.run Sys2Proof.core (n + 1) s = .next u := (run_succ_of_step n h).trans hrun
    by_cases hr : s.runState = .running
    · refine ⟨phaseCount s.opcode + k, u, hrun', ?_⟩
      rw [runPhases_add, hr, phaseOfRunState, runPhases_of_step hr h, hphases]
    · rw [step_of_stopped hr] at h
      cases h
      exact ⟨k, u, hrun', hphases⟩

/-- Settles O58: memory after a phase is memory with the phase's own access done. -/
theorem memoryChangesOnlyThroughPort : Obligations.MemoryChangesOnlyThroughPort := by
  refine fun m => ⟨fun addr data h => ?_, fun h => readByte_of_mem_eq ?_⟩
  · have hmem : (tick m).state.mem = (m.state.writeByte addr data).mem := by
      rw [tick_mem, h]
      rfl
    exact ⟨(readByte_of_mem_eq hmem addr).trans (readByte_writeByte_same _ addr data),
      fun other hne => (readByte_of_mem_eq hmem other).trans (readByte_writeByte_ne _ data hne)⟩
  · rw [tick_mem]
    refine foldl_apply_of_reads _ fun access haccess => ?_
    rw [Option.mem_toList] at haccess
    cases access with
    | read addr => exact ⟨addr, rfl⟩
    | write addr data => exact absurd haccess (h addr data)

/-- Settles O59: reset keeps memory as the phases so far have left it, which is before, between or after the two
writes of the push. -/
theorem resetAbandonsCall : Obligations.ResetAbandonsCall := by
  intro s k hop hk
  have hmem := runPhases_mem_of_call hop hk
  refine ⟨_, rfl, rfl, ?_⟩
  simp only [applyReset_readByte]
  by_cases hfive : k < 5
  · rw [if_pos hfive] at hmem
    have hsix : k < 5 + 1 := by omega
    simp [readByte_of_mem_eq hmem, hfive, hsix]
  rw [if_neg hfive] at hmem
  by_cases hsix : k < 6
  · rw [if_pos hsix] at hmem
    simp only [readByte_of_mem_eq hmem, if_neg hfive, if_pos hsix]
    exact ⟨fun _ hhi _ => readByte_writeByte_ne s _ hhi, readByte_writeByte_same s _ _,
      readByte_writeByte_ne s _ (sub_one_ne_sub_two s.sp).symm⟩
  · rw [if_neg hsix] at hmem
    simp only [readByte_of_mem_eq hmem, if_neg hfive, if_neg hsix]
    exact ⟨fun _ hhi hlo => readByte_push16_of_ne s _ hhi hlo, readByte_push16_high s _, readByte_push16_low s _⟩

end Sys2Proof.Machine
end

section
/-! SUPPORT. What an instruction does to sp and memory (R17, R41) and to the flags and the accumulator (R13, R19), by
its kind. -/

namespace Sys2Proof.Machine

/-- Everything an instruction can do to sp and memory: CALL pushes, RET pops, any other leaves both. -/
theorem exec_stack_cases {i : Instr} {s t : State} (h : exec i s = .next t) :
    ((∃ a16, i = .call a16) ∧ t.sp = s.sp - 2 ∧ t.mem = (s.push16 (s.pc + 3)).mem) ∨
      (i = .ret ∧ t.sp = s.sp + 2 ∧ t.mem = s.mem) ∨
      ((∀ a16, i ≠ .call a16) ∧ i ≠ .ret ∧ t.sp = s.sp ∧ t.mem = s.mem) := by
  cases i with
  | call a16 =>
    cases h
    exact .inl ⟨⟨a16, rfl⟩, rfl, rfl⟩
  | ret =>
    cases h
    exact .inr (.inl ⟨rfl, rfl, rfl⟩)
  | jnz | jz | jnc | jc | jpo | jpe | jp | jm =>
    obtain ⟨-, rfl⟩ | ⟨-, rfl⟩ := conditionalJump_cases h <;> exact .inr (.inr ⟨nofun, nofun, rfl, rfl⟩)
  | _ =>
    cases h
    exact .inr (.inr ⟨nofun, nofun, rfl, rfl⟩)

theorem transferAnswer_of_isTransfer {i : Instr} {s t : State} (hi : isTransfer i = true)
    (h : exec i s = .next t) : TransferAnswer s t := by
  obtain ⟨rfl, -⟩ | ⟨hnot, -⟩ | ⟨-, htransfer⟩ := exec_cases h
  · cases hi
  · simp [hi] at hnot
  · exact htransfer

/-- Everything an instruction can do to the flags and the accumulator, and with which opcodes: the adder and ANI
write both, the rotates the accumulator and CY, CMA the accumulator, and any other leaves both. -/
theorem exec_flags_cases {i : Instr} {s t : State} (h : exec i s = .next t) :
    (opcodeOf i ∈ resultFlagOpcodes ∧ FlagsDescribe t.flags t.a) ∨
      (opcodeOf i ∈ carryOpcodes ∧ SameFlagsButCarry s t) ∨
      (opcodeOf i ∈ accumulatorOpcodes ∧ t.flags = s.flags) ∨
      (t.flags = s.flags ∧ t.a = s.a) := by
  cases i with
  | addB | addC | addD | addE | addH | addL | addA | addM | adi =>
    cases h
    exact .inl ⟨by simp [opcodeOf, resultFlagOpcodes], flagsDescribe_add8 _ _⟩
  | ani =>
    cases h
    exact .inl ⟨by simp [opcodeOf, resultFlagOpcodes], flagsDescribe_and8 _ _⟩
  | rrc | rar =>
    cases h
    exact .inr (.inl ⟨by simp [opcodeOf, carryOpcodes], rfl, rfl, rfl, rfl⟩)
  | cma =>
    cases h
    exact .inr (.inr (.inl ⟨by simp [opcodeOf, accumulatorOpcodes], rfl⟩))
  | hlt =>
    cases h
    exact .inr (.inr (.inr ⟨rfl, rfl⟩))
  | _ =>
    obtain ⟨hflags, ⟨ha, -⟩, -⟩ := (transferAnswer_of_isTransfer rfl h).keeps
    exact .inr (.inr (.inr ⟨hflags, ha⟩))

/-- No instruction writes a general register but the accumulator (R13). -/
theorem exec_sameGeneral {i : Instr} {s t : State} (h : exec i s = .next t) : SameGeneral s t := by
  obtain ⟨-, rfl⟩ | ⟨-, u, cls, r, carryOut, hu, rfl⟩ | ⟨-, htransfer⟩ := exec_cases h
  · exact ⟨rfl, rfl, rfl, rfl, rfl, rfl⟩
  · obtain rfl | ⟨v, rfl⟩ := hu <;> exact ⟨rfl, rfl, rfl, rfl, rfl, rfl⟩
  · obtain ⟨-, ⟨-, hgeneral⟩, -⟩ := htransfer.keeps
    exact hgeneral

theorem opcodeOf_eq_ret {i : Instr} : opcodeOf i = 0xC9 ↔ i = .ret := by
  cases i <;> simp [opcodeOf]

/-- A step leaves sp, memory, the flags and the registers, as where the machine is stopped or takes the fatal path
(R24, R172), or it runs an instruction with the opcode at pc. -/
theorem step_keeps_or_exec {s t : State} (h : step s = .next t) :
    (t.sp = s.sp ∧ t.mem = s.mem ∧ t.flags = s.flags ∧ SameRegisters s t) ∨
      ∃ i, opcodeOf i = s.opcode ∧ exec i s.latchOpcode = .next t := by
  obtain ⟨-, rfl⟩ | ⟨-, -, rfl⟩ | ⟨i, -, hf, hexec⟩ := step_cases h
  · exact .inl ⟨rfl, rfl, rfl, rfl, rfl, rfl, rfl, rfl, rfl, rfl⟩
  · exact .inl ⟨rfl, rfl, rfl, rfl, rfl, rfl, rfl, rfl, rfl, rfl⟩
  · exact .inr ⟨i, opcodeOf_of_fetch hf, hexec⟩

end Sys2Proof.Machine
end

section
/-! PROOF. What a step may write (10_state.md, 20_memory.md). -/

namespace Sys2Proof.Machine

/-- Settles O41: an instruction's opcode tells whether it pushes, pops or leaves sp. -/
theorem stackPointerChanges : Obligations.StackPointerChanges := by
  intro s t hr h
  obtain ⟨hstopped, -⟩ | ⟨-, hf, rfl⟩ | ⟨i, -, hf, hexec⟩ := step_cases h
  · exact absurd hr hstopped
  · have hop : ∀ i, s.opcode ≠ opcodeOf i := fun i heq =>
      (fetchInstr_eq_none_iff_not_mem s).1 hf (heq ▸ opcodeOf_mem_boundOpcodes i)
    exact ⟨fun hcall => absurd hcall (hop (.call 0)), fun hret => absurd hret (hop .ret), fun _ _ => rfl⟩
  · have hop : s.readByte s.pc = opcodeOf i := (opcodeOf_of_fetch hf).symm
    have hcall : opcodeOf i = 0xCD ↔ ∃ a16, i = .call a16 := opcodeOf_eq_call
    rw [hop, ne_eq, ne_eq, hcall, opcodeOf_eq_ret]
    obtain ⟨⟨a16, rfl⟩, hsp, -⟩ | ⟨rfl, hsp, -⟩ | ⟨hnotCall, hnotRet, hsp, -⟩ := exec_stack_cases hexec
    · exact ⟨fun _ => hsp, nofun, fun hnot _ => absurd ⟨a16, rfl⟩ hnot⟩
    · exact ⟨nofun, fun _ => hsp, fun _ hnot => absurd rfl hnot⟩
    · exact ⟨fun ⟨a16, hi⟩ => absurd hi (hnotCall a16), fun hi => absurd hi hnotRet, fun _ _ => hsp⟩

/-- Settles O42: the four kinds of instruction that `exec_flags_cases` tells apart; AC is inert. -/
theorem flagAndAccumulatorWriters : Obligations.FlagAndAccumulatorWriters := by
  intro s t h
  obtain ⟨hac, -⟩ := step_keeps_inert h
  obtain ⟨-, -, hflags, ha, -⟩ | ⟨i, hop, hexec⟩ := step_keeps_or_exec h
  · rw [hflags]
    exact ⟨fun _ => ⟨rfl, rfl, rfl⟩, fun _ => rfl, fun _ => ha, rfl⟩
  · rw [show s.readByte s.pc = opcodeOf i from hop.symm]
    have hcarry : opcodeOf i ∈ resultFlagOpcodes → opcodeOf i ∈ carryOpcodes := List.mem_append_left _
    have hacc : opcodeOf i ∈ carryOpcodes → opcodeOf i ∈ accumulatorOpcodes := List.mem_append_left _
    obtain ⟨hmem, -⟩ | ⟨hmem, hz, hs, hp, -⟩ | ⟨hmem, hflags⟩ | ⟨hflags, ha⟩ := exec_flags_cases hexec
    · exact ⟨fun hnot => absurd hmem hnot, fun hnot => absurd (hcarry hmem) hnot,
        fun hnot => absurd (hacc (hcarry hmem)) hnot, hac⟩
    · exact ⟨fun _ => ⟨hz, hs, hp⟩, fun hnot => absurd hmem hnot, fun hnot => absurd (hacc hmem) hnot, hac⟩
    · rw [hflags]
      exact ⟨fun _ => ⟨rfl, rfl, rfl⟩, fun _ => rfl, fun hnot => absurd hmem hnot, rfl⟩
    · rw [hflags]
      exact ⟨fun _ => ⟨rfl, rfl, rfl⟩, fun _ => rfl, fun _ => ha, rfl⟩

/-- Settles O43: of the instructions only CALL writes memory. -/
theorem onlyCallWritesMemory : Obligations.OnlyCallWritesMemory := by
  intro s t h hne
  obtain ⟨-, hmem, -⟩ | ⟨i, hop, hexec⟩ := step_keeps_or_exec h
  · exact readByte_of_mem_eq hmem
  · obtain ⟨⟨a16, rfl⟩, -⟩ | ⟨-, -, hmem⟩ | ⟨-, -, -, hmem⟩ := exec_stack_cases hexec
    · exact absurd hop.symm hne
    · exact readByte_of_mem_eq hmem
    · exact readByte_of_mem_eq hmem

/-- Settles O44: no instruction writes a general register; AC and inte are inert. -/
theorem untouchedState : Obligations.UntouchedState := by
  intro s t h
  obtain ⟨hac, hinte⟩ := step_keeps_inert h
  refine ⟨?_, hinte, hac⟩
  obtain ⟨-, -, -, -, hgeneral⟩ | ⟨i, -, hexec⟩ := step_keeps_or_exec h
  · exact hgeneral
  · exact exec_sameGeneral (s := s.latchOpcode) hexec


end Sys2Proof.Machine
end

section
/-! SUPPORT. The invariant's parts along a step: memory's canonical form and the consistency of the result flags. -/

namespace Sys2Proof.Machine

/-- A step keeps memory's canonical form: it leaves memory or pushes. -/
theorem step_keeps_wf {s t : State} (h : step s = .next t) (hwf : Memory.wf s.mem = true) :
    Memory.wf t.mem = true := by
  obtain ⟨-, hmem, -⟩ | ⟨i, -, hexec⟩ := step_keeps_or_exec h
  · rwa [hmem]
  · obtain ⟨-, -, hmem⟩ | ⟨-, -, hmem⟩ | ⟨-, -, -, hmem⟩ := exec_stack_cases hexec <;> rw [hmem]
    · exact wf_push16 s.latchOpcode _ hwf
    · exact hwf
    · exact hwf

theorem SameFlagsButCarry.consistent {s t : State} (h : SameFlagsButCarry s t)
    (hs : FlagsConsistent s.flags) : FlagsConsistent t.flags := by
  obtain ⟨hz, hsign, hp, -⟩ := h
  rwa [FlagsConsistent, hz, hsign, hp]

/-- A step keeps the result flags consistent: it leaves them or writes those of a result. -/
theorem step_keeps_flagsConsistent {s t : State} (h : step s = .next t) (hs : FlagsConsistent s.flags) :
    FlagsConsistent t.flags := by
  obtain ⟨-, -, hflags, -⟩ | ⟨i, -, hexec⟩ := step_keeps_or_exec h
  · rwa [hflags]
  · obtain ⟨-, hdescribe⟩ | ⟨-, hsame⟩ | ⟨-, hflags⟩ | ⟨hflags, -⟩ := exec_flags_cases hexec
    · exact hdescribe.consistent
    · exact hsame.consistent hs
    · rwa [hflags]
    · rwa [hflags]

/-- The fatal path leaves the fault record: pc on the opcode that IR holds (R25, R172). -/
theorem step_faulted_record {s t : State} (hr : s.runState = .running) (h : step s = .next t)
    (ht : t.runState = .faulted) : t.readByte t.pc = t.ir ∧ t.ir ∉ boundOpcodes := by
  obtain ⟨-, hfault⟩ := step_stops_iff hr h
  have hop := hfault.1 ht
  rw [step_of_not_mem hr hop] at h
  cases h
  exact ⟨rfl, hop⟩

theorem launch_wf {image : List Byte} {s : State} (h : State.launch image = some s) :
    Memory.wf s.mem = true ∧ s = { State.reset with mem := s.mem } := by
  have hfits : image.length ≤ 65536 := by
    by_contra hlong
    rw [launch_of_too_long (Nat.lt_of_not_le hlong)] at h
    cases h
  rw [launch_of_fits hfits] at h
  cases h
  exact ⟨wf_loadFrom [] 0 image rfl (by rwa [Nat.zero_add]), rfl⟩

/-- A state with the reset values and a memory in canonical form meets the invariant: it is Running, and no
result has been written. -/
theorem inv_reset_with_mem {m : Memory} (h : Memory.wf m = true) : Inv { State.reset with mem := m } :=
  ⟨h, nofun, nofun, nofun⟩

end Sys2Proof.Machine
end

section
/-! PROOF. The invariant along steps, at reset and at launch, and how a run stops (10_state.md,
40_fetch_dispatch.md, 70_reset_and_hazards.md). -/

namespace Sys2Proof.Machine

/-- Settles O38: `exec` is total, and so is the step. -/
theorem everyStepCompletes : Obligations.EveryStepCompletes := ⟨exists_exec_eq_next, exists_step_eq_next⟩

/-- Settles O39: a state is safe unless it is Faulted, so the two ways are those in which a step leaves Running. -/
theorem stopCauses : Obligations.StopCauses := by
  intro s t hr h
  obtain ⟨hhalted, hfaulted⟩ := step_stops_iff hr h
  rw [State.Safe, ne_eq, not_not]
  exact ⟨hfaulted, hhalted⟩

/-- Settles O53: a stopped state is kept as it is; a Running one stops only on HLT or an unbound opcode, which the
step leaves in IR. -/
theorem stepKeepsInvariant : Obligations.StepKeepsInvariant := by
  intro s t hinv h
  by_cases hr : s.runState = .running
  · refine ⟨step_keeps_wf h hinv.memory, step_keeps_flagsConsistent h hinv.flags, step_faulted_record hr h,
      fun ht => ?_⟩
    obtain ⟨hhalted, -⟩ := step_stops_iff hr h
    rw [step_ir_of_running hr h, hhalted.1 ht]
  · rw [step_of_stopped hr] at h
    cases h
    exact hinv

/-- Settles O54: the reset action gives the reset values over the memory as it is. -/
theorem resetMeetsInvariant : Obligations.ResetMeetsInvariant :=
  ⟨inv_reset_with_mem wf_reset, fun _ => inv_reset_with_mem⟩

/-- Settles O60: a launch state has the reset values over the memory the load leaves. -/
theorem launchMeetsInvariant : Obligations.LaunchMeetsInvariant := by
  intro image s h
  obtain ⟨hwf, hs⟩ := launch_wf h
  rw [hs]
  exact inv_reset_with_mem hwf

end Sys2Proof.Machine
end

section
/-! SUPPORT. The law of addition (R104), and the rotates as moves of nine bits, the accumulator's and CY
(R120, R121). -/

namespace Sys2Proof.Machine

theorem aluAdd_comm (x y : Byte) : aluAdd x y = aluAdd y x := by
  rw [aluAdd, aluAdd, Nat.add_comm]

/-- CY is the bit of weight 256 of the sum. -/
theorem toNat_add_eq_add8 (s : State) (y : Byte) :
    s.a.toNat + y.toNat = 256 * (s.add8 y).flags.cy.toNat + (s.add8 y).a.toNat := by
  have ha : s.a.toNat < 256 := s.a.isLt
  have hy : y.toNat < 256 := y.isLt
  have hcy := add8_cy_iff s y
  rw [toNat_add8_a]
  cases hbit : (s.add8 y).flags.cy with
  | false =>
    simp only [hbit, Bool.false_eq_true, false_iff] at hcy
    simp only [Bool.toNat_false]
    omega
  | true =>
    have hover := hcy.1 hbit
    simp only [Bool.toNat_true]
    omega

/-- The nine bits a rotate moves: bit `k` of the accumulator, and CY as bit 8. -/
def State.rotateBit (s : State) (k : Nat) : Bool := if k < 8 then s.a.getLsbD k else s.flags.cy

/-- The bit that a rotate moves to place `k`: the next one up, for bit 7 the one in place `fill`, and for CY
bit 0. -/
def rotateSource (fill k : Nat) : Nat := if k < 7 then k + 1 else if k = 7 then fill else 0

/-- An instruction that changes of the flags CY alone and moves the nine bits by `source`. -/
def MovesBits (i : Instr) (source : Nat → Nat) : Prop :=
  ∀ s : State, ∃ t, exec i s = .next t ∧ SameFlagsButCarry s t ∧ ∀ k, t.rotateBit k = s.rotateBit (source k)

theorem RotatesIn.rotateBit_eq {fill : Nat} {s t : State} (h : RotatesIn (s.rotateBit fill) s t) (k : Nat) :
    t.rotateBit k = s.rotateBit (rotateSource fill k) := by
  obtain ⟨hseven, hlow, hcy, -⟩ := h
  obtain hk | rfl | hk : k < 7 ∨ k = 7 ∨ 8 ≤ k := by omega
  · have hk₀ : k < 8 := by omega
    have hk₁ : k + 1 < 8 := by omega
    rw [rotateSource, if_pos hk, State.rotateBit, if_pos hk₀, State.rotateBit, if_pos hk₁, hlow k hk]
  · exact hseven
  · have hk₀ : ¬k < 8 := by omega
    have hk₁ : ¬k < 7 := by omega
    have hk₂ : k ≠ 7 := by omega
    rw [rotateSource, if_neg hk₁, if_neg hk₂, State.rotateBit, if_neg hk₀, hcy]
    rfl

/-- RRC fills in bit 0. -/
theorem movesBits_rrc : MovesBits .rrc (rotateSource 0) := by
  intro s
  have hrot : RotatesIn (s.rotateBit 0) s (s.rotateRight.advance 1) := rotatesIn_writeResult_advance _ s
  exact ⟨_, exec_rrc s, ⟨rfl, rfl, rfl, rfl⟩, hrot.rotateBit_eq⟩

/-- RAR fills in CY. -/
theorem movesBits_rar : MovesBits .rar (rotateSource 8) := by
  intro s
  have hrot : RotatesIn (s.rotateBit 8) s (s.rotateRightCarry.advance 1) := rotatesIn_writeResult_advance _ s
  exact ⟨_, exec_rar s, ⟨rfl, rfl, rfl, rfl⟩, hrot.rotateBit_eq⟩

theorem SameFlagsButCarry.trans {s t u : State} (h : SameFlagsButCarry s t) (h' : SameFlagsButCarry t u) :
    SameFlagsButCarry s u := by
  obtain ⟨hz, hs, hp, hac⟩ := h
  obtain ⟨hz', hs', hp', hac'⟩ := h'
  exact ⟨hz'.trans hz, hs'.trans hs, hp'.trans hp, hac'.trans hac⟩

/-- Executed `n` times, the instruction moves the bits by the `n`-th iterate. -/
theorem MovesBits.exists_execTimes {i : Instr} {source : Nat → Nat} (h : MovesBits i source) (n : Nat) (s : State) :
    ∃ t, execTimes i n s = some t ∧ SameFlagsButCarry s t ∧
      ∀ k, t.rotateBit k = s.rotateBit (source^[n] k) := by
  induction n generalizing s with
  | zero => exact ⟨s, rfl, ⟨rfl, rfl, rfl, rfl⟩, fun _ => rfl⟩
  | succ n ih =>
    obtain ⟨t, hexec, hflags, hbits⟩ := h s
    obtain ⟨u, htimes, hflags', hbits'⟩ := ih t
    refine ⟨u, by rw [execTimes, hexec]; exact htimes, hflags.trans hflags', fun k => ?_⟩
    rw [hbits', hbits, Function.iterate_succ_apply']

/-- Eight RRCs put every bit of the accumulator back, and bit 7 into CY. -/
theorem rotateSource_zero_iterate : (∀ k < 8, (rotateSource 0)^[8] k = k) ∧ (rotateSource 0)^[8] 8 = 7 := by
  decide

/-- Nine RARs put all nine bits back. -/
theorem rotateSource_eight_iterate : ∀ k < 9, (rotateSource 8)^[9] k = k := by
  decide

theorem a_eq_of_rotateBit {s t : State} (h : ∀ k < 8, t.rotateBit k = s.rotateBit k) : t.a = s.a := by
  apply BitVec.eq_of_getLsbD_eq
  intro k hk
  have hbit := h k hk
  rwa [State.rotateBit, State.rotateBit, if_pos hk, if_pos hk] at hbit

/-- The flags are CY and the four flags a rotate leaves. -/
theorem SameFlagsButCarry.flags_eq {s t : State} (h : SameFlagsButCarry s t) (hcy : t.flags.cy = s.flags.cy) :
    t.flags = s.flags := by
  obtain ⟨hz, hs, hp, hac⟩ := h
  calc t.flags = ⟨t.flags.z, t.flags.s, t.flags.p, t.flags.cy, t.flags.ac⟩ := rfl
    _ = s.flags := by rw [hz, hs, hp, hcy, hac]

end Sys2Proof.Machine
end

section
/-! PROOF. The flags unit, addition and the rotation cycles (41_arithmetic.md, 43_rotate.md, 44_parity_flags.md). -/

namespace Sys2Proof.Machine

/-- Settles O11: the two result classes set ZSP of the result and their own CY; the others by definition. -/
theorem flagsUnitClasses : Obligations.FlagsUnitClasses := fun r _ _ f =>
  ⟨⟨flagsDescribe_zsp f r, rfl, rfl⟩, ⟨flagsDescribe_zsp f r, rfl, rfl⟩, rfl, rfl⟩

/-- Settles O16: the adder's law, and the adder is symmetric in its operands. -/
theorem additionLaw : Obligations.AdditionLaw := by
  refine ⟨fun d8 s => ⟨_, exec_adi d8 s, toNat_add_eq_add8 (s.latchByte d8) d8⟩,
    fun x y s => ⟨_, _, exec_adi y _, exec_adi x _, ?_, ?_⟩⟩
  · exact congrArg Prod.fst (aluAdd_comm x y)
  · exact congrArg (fun sum => flagsUnit .add sum.1 sum.2 false s.flags) (aluAdd_comm x y)

/-- Settles O22: the eighth iterate of RRC's move of bits and the ninth of RAR's. -/
theorem rotationCycles : Obligations.RotationCycles := by
  intro s
  obtain ⟨t, ht, -, hbits⟩ := movesBits_rrc.exists_execTimes 8 s
  obtain ⟨u, hu, hflags, hbits'⟩ := movesBits_rar.exists_execTimes 9 s
  obtain ⟨hlow, hcarry⟩ := rotateSource_zero_iterate
  refine ⟨⟨t, ht, a_eq_of_rotateBit fun k hk => ?_, ?_⟩,
    ⟨u, hu, a_eq_of_rotateBit fun k hk => ?_, hflags.flags_eq ?_⟩⟩
  · rw [hbits, hlow k hk]
  · have hcy := hbits 8
    rwa [hcarry] at hcy
  · rw [hbits', rotateSource_eight_iterate k (by omega)]
  · have hcy := hbits' 8
    rwa [rotateSource_eight_iterate 8 (by omega)] at hcy

end Sys2Proof.Machine
end

section
/-! SUPPORT. CALL as it is fetched (R53), and the latches an instruction leaves (R87). -/

namespace Sys2Proof.Machine

theorem sub_two_add_one (w : Word) : w - 2 + 1 = w - 1 := by
  bv_omega

/-- Where a push lies, by the two addresses below sp. -/
theorem push16_at {s : State} {high low : Word} (hhigh : s.sp - 1 = high) (hlow : s.sp - 2 = low) (v : Word) :
    (s.push16 v).readByte high = hiByte v ∧ (s.push16 v).readByte low = loByte v ∧ (s.push16 v).sp = low := by
  subst hhigh hlow
  exact ⟨readByte_push16_high s v, readByte_push16_low s v, rfl⟩

/-- A CALL at pc is fetched with the operand that lies behind its opcode. -/
theorem fetchInstr_of_call {s : State} (h : s.opcode = 0xCD) :
    fetchInstr s = some (.call (pairWord (s.operandByte 2) (s.operandByte 1))) := by
  rw [fetchInstr, dispatch_of_call h]

/-- The state CALL answers holds the two bytes of the return address below the old sp. -/
theorem exec_call_pushed {a16 : Word} {s t : State} (h : exec (.call a16) s = .next t) :
    t.pc = a16 ∧ t.sp = s.sp - 2 ∧ t.readByte (s.sp - 1) = hiByte (s.pc + 3) ∧
      t.readByte (s.sp - 2) = loByte (s.pc + 3) := by
  cases h
  exact ⟨rfl, rfl, readByte_push16_high (s.latchWord a16) (s.pc + 3),
    readByte_push16_low (s.latchWord a16) (s.pc + 3)⟩

/-- After `exec` the operand latches are those with which the phases reach S_EXEC (R87). -/
theorem exec_latches {i : Instr} {s t : State} (h : exec i s = .next t) : SameLatches (s.atExec i) t := by
  cases i with
  | jnz | jz | jnc | jc | jpo | jpe | jp | jm =>
    obtain ⟨-, rfl⟩ | ⟨-, rfl⟩ := conditionalJump_cases h <;> exact ⟨rfl, rfl⟩
  | _ =>
    cases h
    exact ⟨rfl, rfl⟩

end Sys2Proof.Machine
end

section
/-! PROOF. CALL, RET and the latches (20_memory.md, 40_fetch_dispatch.md, 45_control_transfer.md). -/

namespace Sys2Proof.Machine

/-- Settles O29: RET pops at the CALL's sp, where both bytes of the return address still lie. -/
theorem callReturnPairing : Obligations.CallReturnPairing := by
  intro a16 s t u hcall hsp hlo hhi
  obtain ⟨-, htsp, hthi, htlo⟩ := exec_call_pushed hcall
  refine ⟨_, exec_ret u, ?_, ?_⟩
  · have hpop : u.pop16.1 = pairWord (u.readByte (u.sp + 1)) (u.readByte u.sp) := rfl
    rw [jumpTo_pc, hpop, hsp, htsp, sub_two_add_one, hlo, hhi, hthi, htlo, pairWord_hiByte_loByte]
  · rw [jumpTo_sp, latchWord_sp, pop16_sp, hsp, htsp, BitVec.sub_add_cancel]

/-- Settles O30: the operand is part of the instruction fetched, which the push comes after. -/
theorem callReadsOperandsBeforePush : Obligations.CallReadsOperandsBeforePush := by
  intro s hr hop
  have hf := fetchInstr_of_call hop
  obtain ⟨t, ht⟩ := exists_exec_eq_next (.call (pairWord (s.operandByte 2) (s.operandByte 1))) s.latchOpcode
  obtain ⟨hpc, -, hhi, hlo⟩ := exec_call_pushed ht
  exact ⟨t, (step_of_fetch hr hf).trans ht, hpc, hhi, hlo⟩

/-- Settles O31: at pc = sp - 2 the next fetch reads the two bytes pushed. -/
theorem storeSeenByNextFetch : Obligations.StoreSeenByNextFetch := by
  intro s
  obtain ⟨t, ht⟩ := exists_exec_eq_next (.call (s.sp - 2)) s
  obtain ⟨hpc, -, hhi, hlo⟩ := exec_call_pushed ht
  refine ⟨t, ht, ?_, ?_⟩
  · rw [State.opcode, hpc, hlo]
  · rw [State.operandByte, hpc, sub_two_add_one, hhi]

/-- Settles O32: `exec` leaves the latches as the phases before S_EXEC load them, and IR as it is. -/
theorem latchesOfInstructions : Obligations.LatchesOfInstructions := by
  refine ⟨fun i s => ?_, fun s => ⟨_, exec_addM s, rfl, rfl⟩, fun s => ⟨_, exec_ret s, ?_, ?_⟩⟩
  · obtain ⟨t, ht⟩ := exists_exec_eq_next i s
    obtain ⟨hzLo, hwHi⟩ := exec_latches ht
    obtain ⟨hnone, hbyte, haddress⟩ := atExec_latches s i
    have hlength : instrLength i = 1 ↔ operandBytes i = [] := Nat.succ_inj.trans List.length_eq_zero_iff
    rw [SameLatches, ← hzLo, ← hwHi, ← hlength] at hnone
    rw [← hzLo, ← hwHi] at hbyte haddress
    exact ⟨t, ht, exec_ir ht, hnone, hbyte, haddress⟩
  · exact loByte_pairWord _ _
  · exact hiByte_pairWord _ _

end Sys2Proof.Machine
end

section
/-! PROOF. Two-byte accesses, wrapping addresses and register pairs (00_scope.md, 10_state.md, 20_memory.md). -/

namespace Sys2Proof.Machine

/-- Settles O48: a two-byte write is two byte writes at different addresses, the low byte's first. -/
theorem wordAccessLittleEndian : Obligations.WordAccessLittleEndian := by
  intro s addr v
  have hne : addr ≠ addr + 1 := by bv_omega
  have hlo : (s.writeWord addr v).readByte addr = loByte v :=
    (readByte_writeByte_ne _ _ hne).trans (readByte_writeByte_same s addr _)
  have hhi : (s.writeWord addr v).readByte (addr + 1) = hiByte v := readByte_writeByte_same _ _ _
  refine ⟨?_, ?_, ?_, fun other hother hnext => ?_⟩
  · rw [hlo, toNat_loByte]
  · rw [hhi, toNat_hiByte]
  · rw [State.readWord, hlo, hhi, pairWord_hiByte_loByte]
  · exact (readByte_writeByte_ne _ _ hnext).trans (readByte_writeByte_ne s _ hother)

/-- Settles O49: addresses are words, so the sums and differences of the access rules wrap. -/
theorem addressesWrap : Obligations.AddressesWrap := by
  intro s v
  have hdown : (1 : Word) - 1 = 0 ∧ (1 : Word) - 2 = 0xFFFF ∧ (0 : Word) - 1 = 0xFFFF ∧
      (0 : Word) - 2 = 0xFFFE := by
    decide
  have hup : (0xFFFF : Word) + 1 = 0 ∧ (0xFFFF : Word) + 2 = 1 ∧ (0xFFFE : Word) + 2 = 0 := by
    decide
  obtain ⟨hhigh₁, hlow₁, hhigh₀, hlow₀⟩ := hdown
  obtain ⟨hnext, hsecond, hsecond'⟩ := hup
  obtain ⟨hreadHigh₁, hreadLow₁, hsp₁⟩ := push16_at (s := { s with sp := 1 }) hhigh₁ hlow₁ v
  obtain ⟨hreadHigh₀, hreadLow₀, hsp₀⟩ := push16_at (s := { s with sp := 0 }) hhigh₀ hlow₀ v
  have hpop : ({ s with sp := 0xFFFF } : State).pop16.1 = pairWord (s.readByte 0) (s.readByte 0xFFFF) :=
    congrArg (fun addr => pairWord (s.readByte addr) (s.readByte 0xFFFF)) hnext
  exact ⟨congrArg s.readByte hnext, congrArg s.readByte hsecond, congrArg s.readByte hsecond', hreadHigh₁,
    hreadLow₁, hsp₁, hreadHigh₀, hreadLow₀, hsp₀, hpop, hsecond⟩

/-- Settles O50: each pair is `hi:lo` of its halves, and a write of one half leaves the halves of the others. -/
theorem registerPairsAreViews : Obligations.RegisterPairsAreViews := fun s v =>
  ⟨⟨toNat_pairWord s.b s.c, toNat_pairWord s.d s.e, toNat_pairWord s.h s.l⟩,
    ⟨toNat_pairWord v s.c, rfl, rfl⟩, ⟨toNat_pairWord s.b v, rfl, rfl⟩, ⟨toNat_pairWord v s.e, rfl, rfl⟩,
    ⟨toNat_pairWord s.d v, rfl, rfl⟩, ⟨toNat_pairWord v s.l, rfl, rfl⟩, ⟨toNat_pairWord s.h v, rfl, rfl⟩,
    rfl, rfl, rfl⟩

end Sys2Proof.Machine
end
